-- ==== Sys2Proof/Word.lean ====
section
/-! DEFINITION. The word types of the DTMF Decoder Core (00_scope.md R10) and the two forms of a complex
value: as a pair of integers in the datapath (R13) and as it is stored (32 bits per component, R10). -/

namespace Sys2Proof

/-- A byte: one lane of the bus (R102), one byte of RAM. -/
abbrev Byte := BitVec 8

/-- A 16-bit quantity: a sample, a tone field, a calibration register (R10). -/
abbrev Half := BitVec 16

/-- A host bus word (R10, R101). -/
abbrev Word := BitVec 32

/-- A 64-bit unsigned quantity: an energy, a magnitude squared (R10). -/
abbrev Dword := BitVec 64

/-- A complex value as the pseudocode computes with it: a pair of integers (R13). -/
structure Cx where
  re : Int
  im : Int
deriving DecidableEq, Repr

/-- A complex value as it is stored: 32-bit two's complement per component (R10). -/
structure Cplx where
  re : Word
  im : Word
deriving DecidableEq, Repr

end Sys2Proof
end

