-- ==== Sys2Proof/Machine/Action.lean ====
section
/-! DEFINITION. The labelled steps of the block's agents (10_state.md R30, 60_exceptions.md R420). -/

namespace Sys2Proof.Machine

/-- One atomic step of one agent (R30, R420), or the environment's reset pulse (R440; log entry 7). -/
inductive Action where
  /-- `TICK(raw)`: one strobe of the sample port (R236). The port is `RAW_BITS` wide (R140): of `raw`, only that many
  low bits reach the block (log entry 14). -/
  | tick (raw : Half)
  /-- `CONFIRM_EDGE`: one rising edge of the synchronised `cal_confirm` pin (R241). -/
  | confirmEdge
  /-- `DELIVER_SET` (R244). -/
  | deliverSet
  /-- `DELIVER_CLR` (R247). -/
  | deliverClr
  /-- `AUTO_START` (R362). -/
  | autoStart
  /-- `COMPLETE` (R363). -/
  | complete
  /-- `BusRead(off)` with the byte lanes the host enables (R101, R104). -/
  | busRead (off : Half) (lanes : BitVec 4)
  /-- `BusWrite(off, data)` with the byte lanes the host enables (R101, R105). -/
  | busWrite (off : Half) (lanes : BitVec 4) (data : Word)
  /-- `rst_n` goes to 0 and back to 1 (R440-R442). -/
  | reset
deriving DecidableEq, Repr, Inhabited

/-- The answer of the bus to an access: the ports `rdata` and `err` (R140, R103, R407). -/
inductive BusResponse where
  /-- no access has been answered since reset -/
  | idle
  /-- a read ended: its data, and whether `err` was raised -/
  | read (data : Word) (err : Bool)
  /-- a write ended: whether `err` was raised -/
  | write (err : Bool)
deriving DecidableEq, Repr

end Sys2Proof.Machine
end

