-- ==== Sys2Proof/Config.lean ====
section
/-! DEFINITION. The fixed parameters (00_scope.md R8), the open parameters (R9) and the free values: what the spec
leaves open is an opaque constant here, so that no proof can rest on a chosen value. -/

namespace Sys2Proof

/-- What the FFT detector measures a candidate's distance from (R9 `FDET_REF`). -/
inductive FdetRef where
  | canonical
  | bin
deriving DecidableEq, Repr

/-- The open parameters of R9 that are data. One record holds the values of one instance of the block; they are fixed
for a run (93_implementation_defined.md section 2). -/
structure Params where
  gSequenceLength : Nat
  rawBits : Nat
  fftThreshRst : Word
  goeThreshRst : Dword
  calSpanRst : Half
  fdetRef : FdetRef
deriving DecidableEq, Repr

/-- `SEQ_CAP = G_SEQUENCE_LENGTH − 2` (R9). -/
def Params.seqCap (p : Params) : Nat := p.gSequenceLength - 2

/-- The legal ranges of R9: 3 ≤ G_SEQUENCE_LENGTH ≤ 257 and 1 ≤ RAW_BITS ≤ 16; every value of the others is legal. -/
def Params.legal (p : Params) : Bool :=
  decide (3 ≤ p.gSequenceLength ∧ p.gSequenceLength ≤ 257 ∧ 1 ≤ p.rawBits ∧ p.rawBits ≤ 16)

/-- OPEN (R9): `G_SEQUENCE_LENGTH`, counted from its least legal value 3. -/
opaque Config.gSequenceLengthFrom3 : Fin 255

/-- OPEN (R9): `RAW_BITS`, counted from its least legal value 1. -/
opaque Config.rawBitsFrom1 : Fin 16

/-- OPEN (R9): `FFT_THRESH_RST`. -/
opaque Config.fftThreshRst : Word

/-- OPEN (R9): `GOE_THRESH_RST`. -/
opaque Config.goeThreshRst : Dword

/-- OPEN (R9): `CAL_SPAN_RST`. -/
opaque Config.calSpanRst : Half

/-- OPEN (R9): whether `FDET_REF` is `BIN`. -/
opaque Config.fdetRefIsBin : Bool

/-- The parameters of the block that `State.reset` is a state of: any legal values (log entry 4). -/
def Config.params : Params where
  gSequenceLength := Config.gSequenceLengthFrom3.val + 3
  rawBits := Config.rawBitsFrom1.val + 1
  fftThreshRst := Config.fftThreshRst
  goeThreshRst := Config.goeThreshRst
  calSpanRst := Config.calSpanRst
  fdetRef := if Config.fdetRefIsBin then .bin else .canonical

/-- OPEN (R9, R233): `CAL_BAND_FN`, from a raw reading to one of ten bands. -/
opaque Config.calBandFn : Half → Fin 10

/-- OPEN (R9, R233): `CAL_MASK_FN`, from a raw reading to the midpoint-mask value. -/
opaque Config.calMaskFn : Half → Half

/-- FREE VALUE (R441): what a byte of RAM holds after a reset until it is written, by the number of the reset and the
byte's address (log entry 5). -/
opaque Config.ramPowerOn : Nat → Nat → Byte

/-- FREE VALUE (R364): what the n-th read of an element that the running job writes answers (log entry 6). -/
opaque Config.busyRead : Nat → Word

/-- FREE VALUE (R420): which step comes next where the agenda holds none (log entry 1). -/
opaque Config.nextAction : Nat → Machine.Action

/-- `N`, samples per frame and FFT size (R8). -/
def Config.frameLength : Nat := 512

/-- `NG`, the Goertzel window (R8). -/
def Config.goertzelWindow : Nat := 508

/-- `FREQ[0..3]`, the low group: rows 0-3 (R8). -/
def Config.lowFreqs : List Nat := [697, 770, 852, 941]

/-- `FREQ[4..7]`, the high group: columns 0-3 (R8). -/
def Config.highFreqs : List Nat := [1209, 1336, 1477, 1633]

/-- `FREQ[0..7]` (R8). -/
def Config.freqs : List Nat := Config.lowFreqs ++ Config.highFreqs

end Sys2Proof
end

