-- ==== Sys2Proof/Machine/Rom.lean ====
section
/-! DEFINITION. The constant storage of the block: the twiddle ROM `TW` (48_rom_tables.md R390, the normative table), the
Goertzel ROM `GK`, `GCOEF` (R391) and the identification constants (R392). -/

namespace Sys2Proof.Machine

/-- `TWROM[0..63]`, the `word` column of R390. -/
def twWords0 : List Nat :=
  [ 0x00004000, 0xFF373FFF, 0xFE6E3FFB, 0xFDA53FF5, 0xFCDC3FEC, 0xFC133FE1, 0xFB4B3FD4, 0xFA823FC4,
    0xF9BA3FB1, 0xF8F23F9C, 0xF82A3F85, 0xF7633F6B, 0xF69C3F4F, 0xF5D53F30, 0xF50F3F0F, 0xF4493EEB,
    0xF3843EC5, 0xF2BF3E9D, 0xF1FA3E72, 0xF1363E45, 0xF0733E15, 0xEFB03DE3, 0xEEEE3DAF, 0xEE2D3D78,
    0xED6C3D3F, 0xECAC3D03, 0xEBED3CC5, 0xEB2E3C85, 0xEA703C42, 0xE9B43BFD, 0xE8F73BB6, 0xE83C3B6D,
    0xE7823B21, 0xE6C93AD3, 0xE6113A82, 0xE5593A30, 0xE4A339DB, 0xE3EE3984, 0xE33A392B, 0xE28738CF,
    0xE1D53871, 0xE1243812, 0xE07437B0, 0xDFC6374B, 0xDF1936E5, 0xDE6D367D, 0xDDC33612, 0xDD1935A5,
    0xDC723537, 0xDBCB34C6, 0xDB263453, 0xDA8233DF, 0xD9E03368, 0xD93F32EF, 0xD8A03274, 0xD80231F8,
    0xD7663179, 0xD6CB30F9, 0xD6323076, 0xD59B2FF2, 0xD5052F6C, 0xD4712EE4, 0xD3DF2E5A, 0xD34E2DCF ]

/-- `TWROM[64..127]`, the `word` column of R390. -/
def twWords1 : List Nat :=
  [ 0xD2BF2D41, 0xD2312CB2, 0xD1A62C21, 0xD11C2B8F, 0xD0942AFB, 0xD00E2A65, 0xCF8A29CE, 0xCF072935,
    0xCE87289A, 0xCE0827FE, 0xCD8C2760, 0xCD1126C1, 0xCC982620, 0xCC21257E, 0xCBAD24DA, 0xCB3A2435,
    0xCAC9238E, 0xCA5B22E7, 0xC9EE223D, 0xC9832193, 0xC91B20E7, 0xC8B5203A, 0xC8501F8C, 0xC7EE1EDC,
    0xC78F1E2B, 0xC7311D79, 0xC6D51CC6, 0xC67C1C12, 0xC6251B5D, 0xC5D01AA7, 0xC57E19EF, 0xC52D1937,
    0xC4DF187E, 0xC49317C4, 0xC44A1709, 0xC403164C, 0xC3BE1590, 0xC37B14D2, 0xC33B1413, 0xC2FD1354,
    0xC2C11294, 0xC28811D3, 0xC2511112, 0xC21D1050, 0xC1EB0F8D, 0xC1BB0ECA, 0xC18E0E06, 0xC1630D41,
    0xC13B0C7C, 0xC1150BB7, 0xC0F10AF1, 0xC0D00A2B, 0xC0B10964, 0xC095089D, 0xC07B07D6, 0xC064070E,
    0xC04F0646, 0xC03C057E, 0xC02C04B5, 0xC01F03ED, 0xC0140324, 0xC00B025B, 0xC0050192, 0xC00100C9 ]

/-- `TWROM[128..191]`, the `word` column of R390. -/
def twWords2 : List Nat :=
  [ 0xC0000000, 0xC001FF37, 0xC005FE6E, 0xC00BFDA5, 0xC014FCDC, 0xC01FFC13, 0xC02CFB4B, 0xC03CFA82,
    0xC04FF9BA, 0xC064F8F2, 0xC07BF82A, 0xC095F763, 0xC0B1F69C, 0xC0D0F5D5, 0xC0F1F50F, 0xC115F449,
    0xC13BF384, 0xC163F2BF, 0xC18EF1FA, 0xC1BBF136, 0xC1EBF073, 0xC21DEFB0, 0xC251EEEE, 0xC288EE2D,
    0xC2C1ED6C, 0xC2FDECAC, 0xC33BEBED, 0xC37BEB2E, 0xC3BEEA70, 0xC403E9B4, 0xC44AE8F7, 0xC493E83C,
    0xC4DFE782, 0xC52DE6C9, 0xC57EE611, 0xC5D0E559, 0xC625E4A3, 0xC67CE3EE, 0xC6D5E33A, 0xC731E287,
    0xC78FE1D5, 0xC7EEE124, 0xC850E074, 0xC8B5DFC6, 0xC91BDF19, 0xC983DE6D, 0xC9EEDDC3, 0xCA5BDD19,
    0xCAC9DC72, 0xCB3ADBCB, 0xCBADDB26, 0xCC21DA82, 0xCC98D9E0, 0xCD11D93F, 0xCD8CD8A0, 0xCE08D802,
    0xCE87D766, 0xCF07D6CB, 0xCF8AD632, 0xD00ED59B, 0xD094D505, 0xD11CD471, 0xD1A6D3DF, 0xD231D34E ]

/-- `TWROM[192..255]`, the `word` column of R390. -/
def twWords3 : List Nat :=
  [ 0xD2BFD2BF, 0xD34ED231, 0xD3DFD1A6, 0xD471D11C, 0xD505D094, 0xD59BD00E, 0xD632CF8A, 0xD6CBCF07,
    0xD766CE87, 0xD802CE08, 0xD8A0CD8C, 0xD93FCD11, 0xD9E0CC98, 0xDA82CC21, 0xDB26CBAD, 0xDBCBCB3A,
    0xDC72CAC9, 0xDD19CA5B, 0xDDC3C9EE, 0xDE6DC983, 0xDF19C91B, 0xDFC6C8B5, 0xE074C850, 0xE124C7EE,
    0xE1D5C78F, 0xE287C731, 0xE33AC6D5, 0xE3EEC67C, 0xE4A3C625, 0xE559C5D0, 0xE611C57E, 0xE6C9C52D,
    0xE782C4DF, 0xE83CC493, 0xE8F7C44A, 0xE9B4C403, 0xEA70C3BE, 0xEB2EC37B, 0xEBEDC33B, 0xECACC2FD,
    0xED6CC2C1, 0xEE2DC288, 0xEEEEC251, 0xEFB0C21D, 0xF073C1EB, 0xF136C1BB, 0xF1FAC18E, 0xF2BFC163,
    0xF384C13B, 0xF449C115, 0xF50FC0F1, 0xF5D5C0D0, 0xF69CC0B1, 0xF763C095, 0xF82AC07B, 0xF8F2C064,
    0xF9BAC04F, 0xFA82C03C, 0xFB4BC02C, 0xFC13C01F, 0xFCDCC014, 0xFDA5C00B, 0xFE6EC005, 0xFF37C001 ]

/-- `TWROM[256..319]`, the `word` column of R390. -/
def twWords4 : List Nat :=
  [ 0x0000C000, 0x00C9C001, 0x0192C005, 0x025BC00B, 0x0324C014, 0x03EDC01F, 0x04B5C02C, 0x057EC03C,
    0x0646C04F, 0x070EC064, 0x07D6C07B, 0x089DC095, 0x0964C0B1, 0x0A2BC0D0, 0x0AF1C0F1, 0x0BB7C115,
    0x0C7CC13B, 0x0D41C163, 0x0E06C18E, 0x0ECAC1BB, 0x0F8DC1EB, 0x1050C21D, 0x1112C251, 0x11D3C288,
    0x1294C2C1, 0x1354C2FD, 0x1413C33B, 0x14D2C37B, 0x1590C3BE, 0x164CC403, 0x1709C44A, 0x17C4C493,
    0x187EC4DF, 0x1937C52D, 0x19EFC57E, 0x1AA7C5D0, 0x1B5DC625, 0x1C12C67C, 0x1CC6C6D5, 0x1D79C731,
    0x1E2BC78F, 0x1EDCC7EE, 0x1F8CC850, 0x203AC8B5, 0x20E7C91B, 0x2193C983, 0x223DC9EE, 0x22E7CA5B,
    0x238ECAC9, 0x2435CB3A, 0x24DACBAD, 0x257ECC21, 0x2620CC98, 0x26C1CD11, 0x2760CD8C, 0x27FECE08,
    0x289ACE87, 0x2935CF07, 0x29CECF8A, 0x2A65D00E, 0x2AFBD094, 0x2B8FD11C, 0x2C21D1A6, 0x2CB2D231 ]

/-- `TWROM[320..383]`, the `word` column of R390. -/
def twWords5 : List Nat :=
  [ 0x2D41D2BF, 0x2DCFD34E, 0x2E5AD3DF, 0x2EE4D471, 0x2F6CD505, 0x2FF2D59B, 0x3076D632, 0x30F9D6CB,
    0x3179D766, 0x31F8D802, 0x3274D8A0, 0x32EFD93F, 0x3368D9E0, 0x33DFDA82, 0x3453DB26, 0x34C6DBCB,
    0x3537DC72, 0x35A5DD19, 0x3612DDC3, 0x367DDE6D, 0x36E5DF19, 0x374BDFC6, 0x37B0E074, 0x3812E124,
    0x3871E1D5, 0x38CFE287, 0x392BE33A, 0x3984E3EE, 0x39DBE4A3, 0x3A30E559, 0x3A82E611, 0x3AD3E6C9,
    0x3B21E782, 0x3B6DE83C, 0x3BB6E8F7, 0x3BFDE9B4, 0x3C42EA70, 0x3C85EB2E, 0x3CC5EBED, 0x3D03ECAC,
    0x3D3FED6C, 0x3D78EE2D, 0x3DAFEEEE, 0x3DE3EFB0, 0x3E15F073, 0x3E45F136, 0x3E72F1FA, 0x3E9DF2BF,
    0x3EC5F384, 0x3EEBF449, 0x3F0FF50F, 0x3F30F5D5, 0x3F4FF69C, 0x3F6BF763, 0x3F85F82A, 0x3F9CF8F2,
    0x3FB1F9BA, 0x3FC4FA82, 0x3FD4FB4B, 0x3FE1FC13, 0x3FECFCDC, 0x3FF5FDA5, 0x3FFBFE6E, 0x3FFFFF37 ]

/-- `TWROM[384..447]`, the `word` column of R390. -/
def twWords6 : List Nat :=
  [ 0x40000000, 0x3FFF00C9, 0x3FFB0192, 0x3FF5025B, 0x3FEC0324, 0x3FE103ED, 0x3FD404B5, 0x3FC4057E,
    0x3FB10646, 0x3F9C070E, 0x3F8507D6, 0x3F6B089D, 0x3F4F0964, 0x3F300A2B, 0x3F0F0AF1, 0x3EEB0BB7,
    0x3EC50C7C, 0x3E9D0D41, 0x3E720E06, 0x3E450ECA, 0x3E150F8D, 0x3DE31050, 0x3DAF1112, 0x3D7811D3,
    0x3D3F1294, 0x3D031354, 0x3CC51413, 0x3C8514D2, 0x3C421590, 0x3BFD164C, 0x3BB61709, 0x3B6D17C4,
    0x3B21187E, 0x3AD31937, 0x3A8219EF, 0x3A301AA7, 0x39DB1B5D, 0x39841C12, 0x392B1CC6, 0x38CF1D79,
    0x38711E2B, 0x38121EDC, 0x37B01F8C, 0x374B203A, 0x36E520E7, 0x367D2193, 0x3612223D, 0x35A522E7,
    0x3537238E, 0x34C62435, 0x345324DA, 0x33DF257E, 0x33682620, 0x32EF26C1, 0x32742760, 0x31F827FE,
    0x3179289A, 0x30F92935, 0x307629CE, 0x2FF22A65, 0x2F6C2AFB, 0x2EE42B8F, 0x2E5A2C21, 0x2DCF2CB2 ]

/-- `TWROM[448..511]`, the `word` column of R390. -/
def twWords7 : List Nat :=
  [ 0x2D412D41, 0x2CB22DCF, 0x2C212E5A, 0x2B8F2EE4, 0x2AFB2F6C, 0x2A652FF2, 0x29CE3076, 0x293530F9,
    0x289A3179, 0x27FE31F8, 0x27603274, 0x26C132EF, 0x26203368, 0x257E33DF, 0x24DA3453, 0x243534C6,
    0x238E3537, 0x22E735A5, 0x223D3612, 0x2193367D, 0x20E736E5, 0x203A374B, 0x1F8C37B0, 0x1EDC3812,
    0x1E2B3871, 0x1D7938CF, 0x1CC6392B, 0x1C123984, 0x1B5D39DB, 0x1AA73A30, 0x19EF3A82, 0x19373AD3,
    0x187E3B21, 0x17C43B6D, 0x17093BB6, 0x164C3BFD, 0x15903C42, 0x14D23C85, 0x14133CC5, 0x13543D03,
    0x12943D3F, 0x11D33D78, 0x11123DAF, 0x10503DE3, 0x0F8D3E15, 0x0ECA3E45, 0x0E063E72, 0x0D413E9D,
    0x0C7C3EC5, 0x0BB73EEB, 0x0AF13F0F, 0x0A2B3F30, 0x09643F4F, 0x089D3F6B, 0x07D63F85, 0x070E3F9C,
    0x06463FB1, 0x057E3FC4, 0x04B53FD4, 0x03ED3FE1, 0x03243FEC, 0x025B3FF5, 0x01923FFB, 0x00C93FFF ]

/-- `TWROM[k]` for k = 0..511 (R390): bits [15:0] are `TW[k].re`, bits [31:16] `TW[k].im`, each a 16-bit two's
complement pattern (R168). -/
def twWords : List Nat :=
  twWords0 ++ twWords1 ++ twWords2 ++ twWords3 ++ twWords4 ++ twWords5 ++ twWords6 ++ twWords7

/-- The word the window entry `TWROM[k]` reads (R168). -/
def twRomWord (k : Nat) : Word := BitVec.ofNat 32 (twWords.getD k 0)

/-- `TW[k]` in Q2.14 (R280, R390); beyond the table (0, 0) (log entry 13). -/
def tw (k : Nat) : Cx where
  re := ((twRomWord k).extractLsb' 0 16).toInt
  im := ((twRomWord k).extractLsb' 16 16).toInt

/-- `GK[0..7]` (R300, R391). -/
def gk : List Nat := [44, 49, 54, 60, 77, 85, 94, 104]

/-- `GCOEF[0..7]` in Q2.14 (R300, R391). -/
def gcoef : List Nat := [28034, 26932, 25727, 24151, 18997, 16267, 13006, 9196]

/-- The word the window entry `GROM[b]` reads (R164): `GCOEF[b]` in bits [15:0], `GK[b]` in bits [31:16]. -/
def gRomWord (b : Nat) : Word :=
  BitVec.ofNat 16 (gk.getD b 0) ++ BitVec.ofNat 16 (gcoef.getD b 0)

/-- `ID` (R143, R392). -/
def idWord : Word := 0x44544D46#32

/-- `PARAM` (R144, R392). -/
def paramWord (p : Params) : Word :=
  BitVec.ofNat 32
    (p.seqCap % 256 + 9 * 2 ^ 8 + (match p.fdetRef with | .canonical => 0 | .bin => 1) * 2 ^ 12
      + p.rawBits % 32 * 2 ^ 16)

end Sys2Proof.Machine
end

