-- ==== Sys2Proof/Machine/State.lean ====
section
/-! DEFINITION. The state of the block (10_state.md), the reasons a step can stop, and the state after reset (R62,
R440). -/

namespace Sys2Proof.Machine

/-- A frame: A (index 0) or B (index 1) (R8, R41). -/
inductive FrameIx where
  | a
  | b
deriving DecidableEq, Repr

/-- `CTRL.ALG` (R49): 0 = FFT, 1 = GOERTZEL. -/
inductive Alg where
  | fft
  | goertzel
deriving DecidableEq, Repr

/-- `JOB` (R50). -/
inductive Job where
  | none
  | fftRun
  | goeRun
  | fdet
  | gdet
  | decode
  | process
  | release
deriving DecidableEq, Repr

/-- `RESULT.CODE` (R150). -/
inductive ResultCode where
  | none
  | noise
  | multitone
  | hold
  | accepted
  | overflow
deriving DecidableEq, Repr

/-- The events of R401, in the order of their bits (R147). -/
inductive Event where
  | multitone
  | overflow
  | straddle
  | overrun
  | cmdErr
  | symbol
  | frameDone
  | bandChg
  | calDone
deriving DecidableEq, Repr

/-- A tone pair, 16-bit two's complement each (R53, R152). -/
structure TonePair where
  low : Half
  high : Half
deriving DecidableEq, Repr

/-- Why a step stops the machine: never. The block has no trap and no operation of it can hang (R400,
93_implementation_defined.md), so there is no constructor. Safe: nothing can be proved from a fault (log entry 17). -/
inductive Fault where
deriving DecidableEq, Repr

/-- Why a command has no meaning in the model. -/
inductive Refusal where
  /-- Raised only by an arm of `exec` whose command the model gives no meaning: there is none now. Safe: the model stops
  where the block goes on. -/
  | notModelled (mnemonic : String)
deriving DecidableEq, Repr

/-- The RAMs FRAME, SPEC and SEQ: the bytes written since reset, as (address, byte) pairs with the addresses strictly
rising. A byte's address is its byte offset in the host's windows (R141; log entry 16). A byte that is not listed has
not been written since reset: it holds no stored value (log entry 5). -/
abbrev Memory := List Host.Cell

/-- The whole state of the block, and the model's own fields. -/
structure State where
  /-- `CAL_DONE` (R34) -/
  calDone : Bool
  /-- `CONFIRM_PEND` (R35) -/
  confirmPend : Bool
  /-- `PREV_V` (R36) -/
  prevV : Half
  /-- `BAND` (R37) -/
  band : BitVec 4
  /-- `STRADDLE` (R38) -/
  straddle : Bool
  /-- `MIDPOINT` (R39) -/
  midpoint : Half
  /-- `MAX_AMP` (R40) -/
  maxAmp : Half
  /-- `HALF_AMP` (R40) -/
  halfAmp : Half
  /-- `RAW_FS` (R40) -/
  rawFs : Half
  /-- `CAL_SPAN` (R40) -/
  calSpan : Half
  /-- `ACTIVE_IDX` (R41) -/
  activeIdx : FrameIx
  /-- `FILL` (R42) -/
  fill : BitVec 9
  /-- `READY_IDX` (R43) -/
  readyIdx : FrameIx
  /-- `RDY_S` (R44) -/
  rdyS : Bool
  /-- `SET_PEND` (R46) -/
  setPend : Bool
  /-- `CLR_PEND` (R46) -/
  clrPend : Bool
  /-- `RDY_P` (R48) -/
  rdyP : Bool
  /-- `RIDX_P` (R48) -/
  ridxP : FrameIx
  /-- `CTRL.AUTO` (R49) -/
  auto : Bool
  /-- `CTRL.ALG` (R49) -/
  alg : Alg
  /-- `JOB` (R50) -/
  job : Job
  /-- `JOB_ALG` (R50) -/
  jobAlg : Alg
  /-- `JOB_FT` (R50) -/
  jobFt : Word
  /-- `JOB_GT` (R50) -/
  jobGt : Dword
  /-- `JOB_FIDX` (R50) -/
  jobFidx : FrameIx
  /-- `ENERGY[0..7]` (R52) -/
  energy : Vector Dword 8
  /-- `TONE` (R53) -/
  tone : TonePair
  /-- `LAST_CHAR` (R54) -/
  lastChar : Byte
  /-- `SEQ_LEN` (R54) -/
  seqLen : Byte
  /-- `RESULT.CODE` (R54) -/
  resultCode : ResultCode
  /-- `RESULT.SYM` (R54) -/
  resultSym : Byte
  /-- `FFT_THRESH` (R55) -/
  fftThresh : Word
  /-- `GOE_THRESH` (R55) -/
  goeThresh : Dword
  /-- `EVENT` (R56) -/
  event : BitVec 9
  /-- `IRQ_EN` (R56) -/
  irqEn : BitVec 9
  /-- `CU_A` (R60) -/
  cuA : Cplx
  /-- `CU_B` (R60) -/
  cuB : Cplx
  /-- `CU_R` (R60) -/
  cuR : Cplx
  /-- `CU_S` (R60) -/
  cuS : Cplx
  /-- `CU_M` (R60) -/
  cuM : Dword
  /-- the RAMs `FRAME` (R45), `SPEC` (R51) and `SEQ` (R54) -/
  mem : Memory
  /-- the model's own: the open parameters of this block (R9; log entry 4) -/
  par : Params
  /-- the model's own: the number of this reset (log entries 5, 7) -/
  epoch : Nat
  /-- the model's own: how many free values have been drawn (log entries 1, 6) -/
  draws : Nat
  /-- the model's own: the steps that come next (log entries 1, 3) -/
  agenda : List Action
  /-- the model's own: the bus's answer to the last access (log entry 8) -/
  resp : BusResponse
deriving DecidableEq, Repr

/-- The state of a block with the parameters `p` after its reset number `epoch` (R62, R440, R441), before any step is
scheduled. -/
def State.afterReset (p : Params) (epoch : Nat) : State where
  calDone := false
  confirmPend := false
  prevV := 0
  band := 0
  straddle := false
  midpoint := 0
  maxAmp := BitVec.ofNat 16 (2 ^ p.rawBits - 1)
  halfAmp := BitVec.ofNat 16 (2 ^ (p.rawBits - 1))
  rawFs := BitVec.ofNat 16 (2 ^ p.rawBits - 1)
  calSpan := p.calSpanRst
  activeIdx := .a
  fill := 0
  readyIdx := .a
  rdyS := false
  setPend := false
  clrPend := false
  rdyP := false
  ridxP := .a
  auto := false
  alg := .fft
  job := .none
  jobAlg := .fft
  jobFt := 0
  jobGt := 0
  jobFidx := .a
  energy := Vector.replicate 8 0
  tone := { low := 0, high := 0 }
  lastChar := 0x4E
  seqLen := 0
  resultCode := .none
  resultSym := 0
  fftThresh := p.fftThreshRst
  goeThresh := p.goeThreshRst
  event := 0
  irqEn := 0
  cuA := { re := 0, im := 0 }
  cuB := { re := 0, im := 0 }
  cuR := { re := 0, im := 0 }
  cuS := { re := 0, im := 0 }
  cuM := 0
  mem := []
  par := p
  epoch := epoch
  draws := 0
  agenda := []
  resp := .idle

/-- The machine right after its first reset (R440): the model's initial state. -/
def State.reset : State := State.afterReset Config.params 0

end Sys2Proof.Machine
end

