-- ==== Sys2Proof/Machine/Ops.lean ====
section
/-! DEFINITION. The named operations over numbers, memory, events, commands, jobs and the frame token, which every
meaning shares. -/

namespace Sys2Proof.Machine

/-! ### Integers (00_scope.md R11, R12) -/

/-- `wrap_n(v)`: the integer congruent to `v` modulo 2^n in −2^(n−1) .. 2^(n−1) − 1 (R11). -/
def wrap (n : Nat) (v : Int) : Int := Int.bmod v (2 ^ n)

/-- `sat_n(v)`: `v` saturated to −2^(n−1) .. 2^(n−1) − 1 (R11). -/
def sat (n : Nat) (v : Int) : Int :=
  min (max v (-((2 ^ (n - 1) : Nat) : Int))) (((2 ^ (n - 1) : Nat) : Int) - 1)

/-- `v >> s = floor(v / 2^s)` (R11). -/
def shiftDown (v : Int) (s : Nat) : Int := v / ((2 ^ s : Nat) : Int)

/-- `RND(v, s)`: round to nearest, ties toward +∞ (R12). -/
def rnd (v : Int) (s : Nat) : Int :=
  if s = 0 then v else shiftDown (v + ((2 ^ (s - 1) : Nat) : Int)) s

/-- The bits `n−1 .. 0` of the square root of `m`, added to the root `r` found so far. -/
def isqrtFrom : Nat → Nat → Nat → Nat
  | 0, _, r => r
  | n + 1, m, r =>
    let c := r + 2 ^ n
    isqrtFrom n m (if c * c ≤ m then c else r)

/-- `isqrt(m)`: the largest r with r·r ≤ m, for the 64-bit values a magnitude squared takes (R11, R203). -/
def isqrt (m : Nat) : Nat := isqrtFrom 33 m 0

/-! ### Complex arithmetic (40_complex_unit.md R201-R203) -/

/-- `cmul(a, b, sh)`: exact products and sums, one rounding shift, one wrap per component (R201). -/
def cmul (a b : Cx) (sh : Nat) : Cx where
  re := wrap 32 (rnd (a.re * b.re - a.im * b.im) sh)
  im := wrap 32 (rnd (a.re * b.im + a.im * b.re) sh)

/-- `cmul14`: the product by a Q2.14 factor (R201). -/
def cmul14 (a b : Cx) : Cx := cmul a b 14

/-- `cadd` (R202). -/
def cadd (a b : Cx) : Cx where
  re := wrap 32 (a.re + b.re)
  im := wrap 32 (a.im + b.im)

/-- `csub` (R202). -/
def csub (a b : Cx) : Cx where
  re := wrap 32 (a.re - b.re)
  im := wrap 32 (a.im - b.im)

/-- `mag2`, exact (R203). -/
def mag2 (a : Cx) : Nat := (a.re * a.re + a.im * a.im).toNat

/-- `cmag`, the floor square root of `mag2` (R203). -/
def cmag (a : Cx) : Nat := isqrt (mag2 a)

/-- The radix-2 butterfly with w = TW[m] (R282; R211 is the same arithmetic): (a + w·b, a − w·b). -/
def bfly (a b : Cx) (m : Nat) : Cx × Cx :=
  let t := cmul14 b (tw m)
  (cadd a t, csub a t)

/-! ### Memory: one canonical form, one read and one write -/

/-- Whether the byte address `a` is that of a byte of RAM: a byte of SEQ, FRAME A, FRAME B or SPEC (R141, R165-R167;
log entry 16). -/
def ramAddress (a : Nat) : Bool :=
  (0x400 ≤ a && a < 0x800 && a % 4 == 0) || (0x1000 ≤ a && a < 0x1800 && a % 4 < 2)
    || (0x2000 ≤ a && a < 0x2800 && a % 4 < 2) || (0x4000 ≤ a && a < 0x5000)

/-- The addresses of the list rise strictly, starting at `lo` or above, and each is that of a byte of RAM. -/
def Memory.wfFrom : Nat → Memory → Bool
  | _, [] => true
  | lo, c :: m => decide (lo ≤ c.1) && ramAddress c.1 && Memory.wfFrom (c.1 + 1) m

/-- The canonical form: addresses strictly rising, each a byte of RAM. An unlisted byte holds no stored value, so no
listed entry equals what an unlisted address holds. -/
def Memory.wf (m : Memory) : Bool := Memory.wfFrom 0 m

/-- The byte stored at address `a` since reset, if any. -/
def Memory.read? (m : Memory) (a : Nat) : Option Byte :=
  match m with
  | [] => none
  | c :: rest => if c.1 = a then some c.2 else Memory.read? rest a

/-- The cells of the bytes `bs` at consecutive addresses from `a`. -/
def Memory.cellsAt : Nat → List Byte → Memory
  | _, [] => []
  | a, b :: bs => (a, b) :: Memory.cellsAt (a + 1) bs

/-- Stores the bytes `bs` at consecutive addresses from `a`, lowest first, and leaves every other byte alone. -/
def Memory.write (m : Memory) (a : Nat) (bs : List Byte) : Memory :=
  m.filter (fun c => decide (c.1 < a)) ++ Memory.cellsAt a bs
    ++ m.filter (fun c => decide (a + bs.length ≤ c.1))

/-- The byte that address `a` of the RAMs reads: what was written last, else the free value that the RAM holds after a
reset (R441; log entry 5). -/
def State.readByte (s : State) (a : Nat) : Byte :=
  match Memory.read? s.mem a with
  | some b => b
  | none => Config.ramPowerOn s.epoch a

/-- Stores bytes into the RAMs. -/
def State.writeBytes (s : State) (a : Nat) (bs : List Byte) : State :=
  { s with mem := Memory.write s.mem a bs }

/-- The two bytes of a 16-bit pattern, low byte first (R102). -/
def halfBytes (v : Half) : List Byte := [v.extractLsb' 0 8, v.extractLsb' 8 8]

/-- The four bytes of a word, low byte first (R102). -/
def wordBytes (v : Word) : List Byte :=
  [v.extractLsb' 0 8, v.extractLsb' 8 8, v.extractLsb' 16 8, v.extractLsb' 24 8]

/-- The 16-bit pattern at a byte address of the RAMs (R102). -/
def State.readHalf (s : State) (a : Nat) : Half := s.readByte (a + 1) ++ s.readByte a

/-- The word at a byte address of the RAMs (R102). -/
def State.readWord (s : State) (a : Nat) : Word :=
  s.readByte (a + 3) ++ s.readByte (a + 2) ++ s.readByte (a + 1) ++ s.readByte a

/-! ### Events: what the block has in the place of an exception (60_exceptions.md R400, R401) -/

/-- The position of an event's bit (R147). -/
def Event.bit : Event → Nat
  | .multitone => 0
  | .overflow => 1
  | .straddle => 2
  | .overrun => 3
  | .cmdErr => 4
  | .symbol => 5
  | .frameDone => 6
  | .bandChg => 7
  | .calDone => 8

/-- The one-bit mask of an event (R147). -/
def Event.mask (e : Event) : BitVec 9 := 1#9 <<< e.bit

/-- `signal E`: sets the event's sticky bit (R401, R403). -/
def State.signal (s : State) (e : Event) : State := { s with event := s.event ||| e.mask }

/-- `signal E` if `c` holds. -/
def State.signalIf (s : State) (c : Bool) (e : Event) : State := if c then s.signal e else s

/-! ### Jobs and command classes (46_sequencer.md R360-R367) -/

/-- `BUSY = (JOB ≠ NONE)` (R50, R360). -/
def State.busy (s : State) : Bool := decide (s.job ≠ .none)

/-- `START(j)`: the job and its latched operands (R361). -/
def State.startJob (s : State) (j : Job) : State :=
  { s with
    job := j
    jobAlg := s.alg
    jobFt := s.fftThresh
    jobGt := s.goeThresh
    jobFidx := s.ridxP }

/-- `JOB <- NONE`, the end of every job (R363). -/
def State.endJob (s : State) : State := { s with job := .none }

/-- Class CU (R367): accepted iff not busy, and completed within the write (R200). -/
def runCuCommand (effect : State → State) (s : State) : Host.Outcome State Fault Refusal :=
  if s.busy then .next (s.signal .cmdErr) else .next (effect s)

/-- Class JOB (R367): accepted iff `AUTO = 0` and not busy. -/
def runJobCommand (j : Job) (s : State) : Host.Outcome State Fault Refusal :=
  if s.auto || s.busy then .next (s.signal .cmdErr) else .next (s.startJob j)

/-- Class JOB-FRAME (R367): accepted iff `AUTO = 0`, not busy and `RDY_P = 1`. -/
def runJobFrameCommand (j : Job) (s : State) : Host.Outcome State Fault Refusal :=
  if s.auto || s.busy || !s.rdyP then .next (s.signal .cmdErr) else .next (s.startJob j)

/-! ### The frame token (41_acquisition.md R243-R247) -/

/-- The other frame, `1 − f` (R243). -/
def FrameIx.other : FrameIx → FrameIx
  | .a => .b
  | .b => .a

/-- The index of a frame: A = 0, B = 1 (R8). -/
def FrameIx.index : FrameIx → Nat
  | .a => 0
  | .b => 1

/-- `RELEASE_TOKEN`, performed only if `RDY_P = 1` (R246). -/
def State.releaseToken (s : State) : State :=
  if s.rdyP then State.signal { s with rdyP := false, clrPend := true } .frameDone else s

end Sys2Proof.Machine
end

