-- ==== Sys2Proof/Machine/Operands.lean ====
section
/-! DEFINITION. The operand forms: complex registers, samples of a frame, bins of the spectrum, energies and the
sequence, each with its address or index (10_state.md R45, R51, R52, R54, R60). -/

namespace Sys2Proof.Machine

/-- A stored complex value read as a pair of two's complement integers (R11 `sext_32`, R13). -/
def valueOf (z : Cplx) : Cx where
  re := z.re.toInt
  im := z.im.toInt

/-- A complex value as it is stored: each component the 32-bit pattern of `wrap_32` of itself (R13). -/
def storedOf (z : Cx) : Cplx where
  re := BitVec.ofInt 32 z.re
  im := BitVec.ofInt 32 z.im

/-- The address of `FRAME[f][n]`: its offset in the window of its frame (R141, R167). -/
def sampleAddr (f : FrameIx) (n : Nat) : Nat := 0x1000 * (f.index + 1) + 4 * n

/-- The 16-bit pattern stored in `FRAME[f][n]` (R45). -/
def State.sample (s : State) (f : FrameIx) (n : Nat) : Half := s.readHalf (sampleAddr f n)

/-- `FRAME[f][n] <- v` (R242). -/
def State.setSample (s : State) (f : FrameIx) (n : Nat) (v : Half) : State :=
  s.writeBytes (sampleAddr f n) (halfBytes v)

/-- The 512 samples of a frame, `x[0..511]`, as integers (R45, R281). -/
def State.frameSamples (s : State) (f : FrameIx) : List Int :=
  (List.range Config.frameLength).map fun n => (s.sample f n).toInt

/-- The address of `SPEC[k].re`; `SPEC[k].im` stands four bytes above it (R141, R165). -/
def binAddr (k : Nat) : Nat := 0x4000 + 8 * k

/-- `SPEC[k]` (R51). -/
def State.specBin (s : State) (k : Nat) : Cplx where
  re := s.readWord (binAddr k)
  im := s.readWord (binAddr k + 4)

/-- The eight bytes of one bin: re, then im (R165). -/
def binBytes (z : Cplx) : List Byte := wordBytes z.re ++ wordBytes z.im

/-- `SPEC <- bins`: bin 0 first, all in one commit (R284). -/
def State.setSpectrum (s : State) (bins : List Cx) : State :=
  s.writeBytes (binAddr 0) (bins.flatMap fun z => binBytes (storedOf z))

/-- The address of `SEQ[i]` (R141, R166). -/
def seqAddr (i : Nat) : Nat := 0x400 + 4 * i

/-- The character stored in `SEQ[i]` (R54). -/
def State.seqChar (s : State) (i : Nat) : Byte := s.readByte (seqAddr i)

/-- `SEQ[i] <- c` (R341). -/
def State.setSeqChar (s : State) (i : Nat) (c : Byte) : State := s.writeBytes (seqAddr i) [c]

/-- `ENERGY[b]` (R52). -/
def State.energyAt (s : State) (b : Nat) : Dword := s.energy.toList.getD b 0

/-- The eight energies with their frequencies, in FREQ order (R52). -/
def State.energyPairs (s : State) : List (Nat × Nat) :=
  Config.freqs.zip (s.energy.toList.map BitVec.toNat)

/-- `SEQ_CAP` of this block (R9). -/
def State.seqCap (s : State) : Nat := s.par.seqCap

end Sys2Proof.Machine
end

