-- ==== Sys2Proof/Machine/Flags.lean ====
section
/-! DEFINITION. The words of flags: `EVENT` and the interrupt output, `CTRL`, `STATUS` and `RESULT` (30_encoding.md
R145-R150, 60_exceptions.md R405). -/

namespace Sys2Proof.Machine

/-- Bit `i` of a word, set if `b`. -/
def flagBit (b : Bool) (i : Nat) : Word := if b then 1#32 <<< i else 0#32

/-- `irq`: the OR over the enabled events (R405). -/
def State.irq (s : State) : Bool := decide (s.event &&& s.irqEn ≠ 0#9)

/-- The bit of an algorithm choice: 0 = FFT, 1 = GOERTZEL (R49). -/
def Alg.isGoertzel : Alg → Bool
  | .fft => false
  | .goertzel => true

/-- The algorithm a bit selects (R145). -/
def Alg.ofBit (b : Bool) : Alg := if b then .goertzel else .fft

/-- The bit of a frame index: 0 = A, 1 = B (R41). -/
def FrameIx.isB : FrameIx → Bool
  | .a => false
  | .b => true

/-- `STATUS.JOB` (R146). -/
def Job.code : Job → Nat
  | .none => 0
  | .fftRun => 1
  | .goeRun => 2
  | .fdet => 3
  | .gdet => 4
  | .decode => 5
  | .process => 6
  | .release => 7

/-- `RESULT.CODE` as a number (R150). -/
def ResultCode.code : ResultCode → Nat
  | .none => 0
  | .noise => 1
  | .multitone => 2
  | .hold => 3
  | .accepted => 4
  | .overflow => 5

/-- `CTRL` as it reads (R145). -/
def State.ctrlWord (s : State) : Word := flagBit s.auto 0 ||| flagBit s.alg.isGoertzel 1

/-- `STATUS` as it reads (R146). -/
def State.statusWord (s : State) : Word :=
  flagBit s.calDone 0 ||| flagBit s.rdyP 1 ||| flagBit s.ridxP.isB 2 ||| flagBit s.busy 3
    ||| flagBit s.confirmPend 4 ||| flagBit s.straddle 5 ||| (s.band.setWidth 32 <<< 8)
    ||| (BitVec.ofNat 32 s.job.code <<< 12) ||| flagBit s.irq 16

/-- `RESULT` as it reads (R150). -/
def State.resultWord (s : State) : Word :=
  BitVec.ofNat 32 s.resultCode.code ||| (s.resultSym.setWidth 32 <<< 8)

/-- `EVENT` after a write of `d`: write one to clear (R147, R404). -/
def State.clearEvents (s : State) (d : Word) : State :=
  { s with event := s.event &&& ~~~(d.setWidth 9) }

/-- `RESULT <- (code, sym)` (R341). -/
def State.setResult (s : State) (c : ResultCode) (sym : Byte) : State :=
  { s with resultCode := c, resultSym := sym }

end Sys2Proof.Machine
end

