-- ==== Sys2Proof/Machine/Decoder.lean ====
section
/-! DEFINITION. The symbol decoder and the sequence buffer (45_decoder.md R340-R346). -/

namespace Sys2Proof.Machine

/-- The noise marker 'N' (R340). -/
def noiseChar : Byte := 0x4E

/-- `KEYS[4][4]` as ASCII codes, row by row (R340). -/
def keyRows : List (List Byte) :=
  [ [0x31, 0x32, 0x33, 0x41],
    [0x34, 0x35, 0x36, 0x42],
    [0x37, 0x38, 0x39, 0x43],
    [0x2A, 0x30, 0x23, 0x44] ]

/-- `KEYS[r][c]` (R340). -/
def keyCode (r c : Nat) : Byte := (keyRows.getD r []).getD c 0

/-- The place of a frequency in its group: `row(lo)` or `col(hi)`, none if it is not of the group (R341). -/
def groupIndex (g : List Nat) (v : Int) : Option Nat := g.findIdx? fun f => decide ((f : Int) = v)

/-- Steps 1 and 3 of the decoder: noise, no event (R341). -/
def State.decodeNoise (s : State) : State :=
  State.setResult { s with lastChar := noiseChar } .noise 0

/-- Step 2 of the decoder: multitone (R341). -/
def State.decodeMultitone (s : State) : State :=
  (State.setResult { s with lastChar := noiseChar } .multitone 0).signal .multitone

/-- Steps 4 and 5 of the decoder for a resolved symbol (R341). -/
def State.decodeSymbol (s : State) (sym : Byte) : State :=
  if sym = s.lastChar then s.setResult .hold sym
  else if s.seqLen.toNat < s.seqCap then
    (State.setResult { s.setSeqChar s.seqLen.toNat sym with seqLen := s.seqLen + 1, lastChar := sym } .accepted
      sym).signal .symbol
  else (s.setResult .overflow sym).signal .overflow

/-- `DECODE_STEP(lo, hi)` (R341). -/
def State.decodeStep (s : State) (lo hi : Int) : State :=
  if lo = 0 ∨ hi = 0 then s.decodeNoise
  else if lo = -1 ∨ hi = -1 then s.decodeMultitone
  else
    match groupIndex Config.lowFreqs lo, groupIndex Config.highFreqs hi with
    | some r, some c => s.decodeSymbol (keyCode r c)
    | _, _ => s.decodeNoise

/-- `DECODE_STEP(TONE.LOW, TONE.HIGH)` (R341, R365). -/
def State.runDecode (s : State) : State := s.decodeStep s.tone.low.toInt s.tone.high.toInt

/-- `DECODE` (R341): starts the job if class JOB admits it. -/
def execDecode (s : State) : Host.Outcome State Fault Refusal := runJobCommand .decode s

/-- The commit of `DECODE` (R341). -/
def completeDecode (s : State) : State := s.runDecode.endJob

/-- `SEQ_RESET` (R346): class ANY. -/
def execSeqReset (s : State) : Host.Outcome State Fault Refusal :=
  .next { s with seqLen := 0, lastChar := noiseChar }

end Sys2Proof.Machine
end

