-- ==== Sys2Proof/Machine/Detectors.lean ====
section
/-! DEFINITION. The tone-pair detectors (44_detectors.md R320-R327). -/

namespace Sys2Proof.Machine

/-- Whether bin `i` lies within 30 Hz of the frequency `f`: `|125·i − 8·F| ≤ 240` (R321). -/
def withinTolerance (i f : Nat) : Bool := decide (((125 * i : Nat) - (8 * f : Nat) : Int).natAbs ≤ 240)

/-- `match(i)` within the group `g`: the canonical frequency bin `i` lies near, if any (R321). -/
def matchFreq (g : List Nat) (i : Nat) : Option Nat := g.find? (withinTolerance i)

/-- The scan's variables `res`, `bm`, `bi` (R323). -/
structure Scan where
  res : Int
  bm : Nat
  bi : Nat
deriving DecidableEq, Repr

/-- `NEAR(i)` (R323). -/
def nearBest (ref : FdetRef) (c : Scan) (i : Nat) : Bool :=
  match ref with
  | .canonical => decide (((125 * i : Nat) - 8 * c.res : Int).natAbs ≤ 240)
  | .bin => decide (((i : Int) - (c.bi : Int)).natAbs ≤ 1)

/-- One pass of the scan's loop at bin `i` of magnitude squared `m`, for the group `g` and the threshold `t` (R323). -/
def scanBin (ref : FdetRef) (t : Nat) (g : List Nat) (m i : Nat) (c : Scan) : Scan :=
  if c.res = -1 then c
  else
    match matchFreq g i with
    | none => c
    | some f =>
      if m ≤ t * t then c
      else if c.res = 0 then { res := f, bm := m, bi := i }
      else if nearBest ref c i then
        if c.bm < m then { c with bm := m, bi := i } else c
      else { c with res := -1 }

/-- `FDET_GROUP(G)` over bins 0 .. 256 in ascending order (R320, R323). -/
def fdetGroup (ref : FdetRef) (t : Nat) (spec : Nat → Cx) (g : List Nat) : Int :=
  ((List.range 257).foldl (fun c i => scanBin ref t g (mag2 (spec i)) i c) { res := 0, bm := 0, bi := 0 }).res

/-- The tone pair FDET finds in `SPEC` with the threshold `JOB_FT` (R322). -/
def State.fdetPair (s : State) : TonePair where
  low := BitVec.ofInt 16
    (fdetGroup s.par.fdetRef s.jobFt.toNat (fun k => valueOf (s.specBin k)) Config.lowFreqs)
  high := BitVec.ofInt 16
    (fdetGroup s.par.fdetRef s.jobFt.toNat (fun k => valueOf (s.specBin k)) Config.highFreqs)

/-- `TONE <-` the pair FDET finds (R322, R365). -/
def State.runFdet (s : State) : State := { s with tone := s.fdetPair }

/-- `FDET` (R322): starts the job if class JOB admits it. -/
def execFdet (s : State) : Host.Outcome State Fault Refusal := runJobCommand .fdet s

/-- The commit of `FDET` (R322). -/
def completeFdet (s : State) : State := s.runFdet.endJob

/-- One group's loop of `GDET_PAIR` over (frequency, energy) pairs, with the frequency found so far (R327); `none`
is the immediate return of (−1, −1). -/
def gdetGroup (gt : Nat) : List (Nat × Nat) → Nat → Option Nat
  | [], found => some found
  | (f, e) :: rest, found =>
    if gt < e then (if found ≠ 0 then none else gdetGroup gt rest f) else gdetGroup gt rest found

/-- `GDET_PAIR()`: the low group first, then the high group (R327). -/
def gdetPair (gt : Nat) (es : List (Nat × Nat)) : Int × Int :=
  match gdetGroup gt (es.take 4) 0 with
  | none => (-1, -1)
  | some lo =>
    match gdetGroup gt (es.drop 4) 0 with
    | none => (-1, -1)
    | some hi => (lo, hi)

/-- The tone pair GDET finds in `ENERGY` with the threshold `JOB_GT` (R327). -/
def State.gdetTone (s : State) : TonePair where
  low := BitVec.ofInt 16 (gdetPair s.jobGt.toNat s.energyPairs).1
  high := BitVec.ofInt 16 (gdetPair s.jobGt.toNat s.energyPairs).2

/-- `TONE <-` the pair GDET finds (R327, R365). -/
def State.runGdet (s : State) : State := { s with tone := s.gdetTone }

/-- `GDET` (R327): starts the job if class JOB admits it. -/
def execGdet (s : State) : Host.Outcome State Fault Refusal := runJobCommand .gdet s

/-- The commit of `GDET` (R327). -/
def completeGdet (s : State) : State := s.runGdet.endJob

end Sys2Proof.Machine
end

