-- ==== Sys2Proof/Machine/Fft.lean ====
section
/-! DEFINITION. The FFT engine (42_fft.md R280-R284). -/

namespace Sys2Proof.Machine

/-- The butterflies of one pair of sub-transforms of a stage with stride `h`, from position `k` on (R281). -/
def butterflies (h : Nat) : Nat → List Cx → List Cx → List (Cx × Cx)
  | k, a :: as, b :: bs => bfly a b (k * h) :: butterflies h (k + 1) as bs
  | _, _, _ => []

/-- The sub-transform of double length that a stage makes of `Y_s[jp]` and `Y_s[jp + H]` (R281): position k takes
the first outputs, position k + L the second. -/
def combinePair (h : Nat) (a b : List Cx) : List Cx :=
  (butterflies h 0 a b).map Prod.fst ++ (butterflies h 0 a b).map Prod.snd

/-- One stage (R281): R sub-transforms become H = R / 2. -/
def fftStage (ys : List (List Cx)) : List (List Cx) :=
  List.zipWith (combinePair (ys.length / 2)) (ys.take (ys.length / 2)) (ys.drop (ys.length / 2))

/-- `n` stages, one after the other. -/
def fftStages : Nat → List (List Cx) → List (List Cx)
  | 0, ys => ys
  | n + 1, ys => fftStages n (fftStage ys)

/-- `Y_0`: every sample a sub-transform of length 1 (R281). -/
def fftStart (x : List Int) : List (List Cx) := x.map fun v => [{ re := v, im := 0 }]

/-- `FFT(x)` for 512 samples: nine stages, the bins in natural order (R281, R283). -/
def fft (x : List Int) : List Cx := (fftStages 9 (fftStart x)).headD []

/-- `SPEC <- FFT(FRAME[JOB_FIDX])` (R284, R365). -/
def State.runFft (s : State) : State := s.setSpectrum (fft (s.frameSamples s.jobFidx))

/-- `FFT_RUN` (R284): starts the job if class JOB-FRAME admits it. -/
def execFftRun (s : State) : Host.Outcome State Fault Refusal := runJobFrameCommand .fftRun s

/-- The commit of `FFT_RUN` (R284). -/
def completeFftRun (s : State) : State := s.runFft.endJob

end Sys2Proof.Machine
end

