-- ==== Sys2Proof/Machine/Goertzel.lean ====
section
/-! DEFINITION. The Goertzel resonator bank (43_goertzel.md R300-R303). -/

namespace Sys2Proof.Machine

/-- One step of the recurrence on (s[n−1], s[n−2]) (R301). -/
def resonate (c : Int) (q : Int × Int) (x : Int) : Int × Int :=
  (wrap 32 (x + rnd (c * q.1) 14 - q.2), q.1)

/-- `GOERTZEL_STATE(x, C)` = (Q1, Q2), over the first 508 samples (R301). -/
def goertzelState (x : List Int) (c : Int) : Int × Int :=
  (x.take Config.goertzelWindow).foldl (resonate c) (0, 0)

/-- `GOERTZEL_ENERGY(Q1, Q2, C)` (R302). -/
def goertzelEnergy (q : Int × Int) (c : Int) : Int :=
  q.1 * q.1 + q.2 * q.2 - rnd (q.1 * q.2 * c) 14

/-- The energy of resonator `b` for the samples `x`, as `ENERGY[b]` stores it (R302, R303; log entry
18). -/
def resonatorEnergy (x : List Int) (b : Nat) : Dword :=
  BitVec.ofInt 64 (goertzelEnergy (goertzelState x (gcoef.getD b 0)) (gcoef.getD b 0))

/-- The eight energies of the frame `JOB_FIDX`: independent lanes over the same samples (R303). -/
def State.bankEnergies (s : State) : Vector Dword 8 :=
  Vector.ofFn fun b : Fin 8 => resonatorEnergy (s.frameSamples s.jobFidx) b.val

/-- All eight `ENERGY[b]` from the frame `JOB_FIDX`, in one commit (R303, R365). -/
def State.runGoertzel (s : State) : State := { s with energy := s.bankEnergies }

/-- `GOE_RUN` (R303): starts the job if class JOB-FRAME admits it. -/
def execGoeRun (s : State) : Host.Outcome State Fault Refusal := runJobFrameCommand .goeRun s

/-- The commit of `GOE_RUN` (R303). -/
def completeGoeRun (s : State) : State := s.runGoertzel.endJob

end Sys2Proof.Machine
end

