-- ==== Sys2Proof/Machine/Sequencer.lean ====
section
/-! DEFINITION. The sequencer: the compound jobs, their commands, `COMPLETE` and `AUTO_START` (46_sequencer.md
R360-R370). -/

namespace Sys2Proof.Machine

/-- The engine and the detector of the algorithm latched at the start of `PROCESS` (R365). -/
def State.runSelected (s : State) : State :=
  match s.jobAlg with
  | .fft => s.runFft.runFdet
  | .goertzel => s.runGoertzel.runGdet

/-- `PROCESS` (R365): starts the job if class JOB-FRAME admits it. -/
def execProcess (s : State) : Host.Outcome State Fault Refusal := runJobFrameCommand .process s

/-- The commit of `PROCESS` (R365). -/
def completeProcess (s : State) : State := s.runSelected.runDecode.releaseToken.endJob

/-- `RELEASE` (R366): starts the job if class JOB-FRAME admits it. -/
def execRelease (s : State) : Host.Outcome State Fault Refusal := runJobFrameCommand .release s

/-- The commit of `RELEASE` (R366). -/
def completeRelease (s : State) : State := s.releaseToken.endJob

/-- A confirmation, by the pin or by the command: remembered while calibration runs, without effect afterwards
(R241, R370). -/
def State.requestConfirm (s : State) : State := if s.calDone then s else { s with confirmPend := true }

/-- `CAL_CONFIRM` (R370): class ANY. -/
def execCalConfirm (s : State) : Host.Outcome State Fault Refusal := .next s.requestConfirm

/-- `COMPLETE`: the running job's whole effect, then `JOB <- NONE` (R363). Without a job it is not enabled and does
nothing. -/
def State.completeJob (s : State) : State :=
  match s.job with
  | .none => s
  | .fftRun => completeFftRun s
  | .goeRun => completeGoeRun s
  | .fdet => completeFdet s
  | .gdet => completeGdet s
  | .decode => completeDecode s
  | .process => completeProcess s
  | .release => completeRelease s

/-- `AUTO_START` (R362). -/
def State.autoStart (s : State) : State := s.startJob .process

end Sys2Proof.Machine
end

