-- ==== Sys2Proof/Machine/Acquisition.lean ====
section
/-! DEFINITION. The sampler's steps and the CDC channel's steps (41_acquisition.md R236-R247). -/

namespace Sys2Proof.Machine

/-- The reading on the `RAW_BITS`-wide sample port (R140, R231; log entry 14). -/
def State.portReading (s : State) (raw : Half) : Half := BitVec.ofNat 16 (raw.toNat % 2 ^ s.par.rawBits)

/-- `CONV(raw)` (R237; log entries 11, 15). -/
def State.convert (s : State) (raw : Half) : Half :=
  BitVec.ofInt 16
    (sat 16 (((raw.toNat * s.maxAmp.toNat / s.rawFs.toNat : Nat) : Int) - s.halfAmp.toInt))

/-- The straddle test on the previous and the current reading (R238). -/
def State.straddles (s : State) (v : Half) : Bool :=
  decide ((0 < s.prevV.toInt ∧ v.toInt < 0 ∨ s.prevV.toInt < 0 ∧ 0 < v.toInt)
    ∧ s.calSpan.toNat < (v.toInt - s.prevV.toInt).natAbs)

/-- The band report (R239). -/
def State.reportBand (s : State) (raw : Half) : State :=
  let b := BitVec.ofNat 4 (Config.calBandFn raw).val
  if b = s.band then s else State.signal { s with band := b } .bandChg

/-- The straddle report (R238). -/
def State.reportStraddle (s : State) (strad : Bool) : State :=
  State.signalIf { s with straddle := strad } strad .straddle

/-- Finalisation (R240). -/
def State.finalise (s : State) (raw : Half) (strad : Bool) : State :=
  if s.confirmPend && !strad then
    State.signal { s with calDone := true, confirmPend := false, midpoint := Config.calMaskFn raw } .calDone
  else s

/-- `CAL_TICK(raw, v)` (R240): band, straddle, finalisation, and last `PREV_V <- v`. -/
def State.calTick (s : State) (raw v : Half) : State :=
  let strad := s.straddles v
  { ((s.reportBand raw).reportStraddle strad).finalise raw strad with prevV := v }

/-- `HANDOFF` (R243). -/
def State.handOff (s : State) : State :=
  if s.rdyS then State.signal { s with fill := 0 } .overrun
  else
    { s with
      fill := 0
      readyIdx := s.activeIdx
      activeIdx := s.activeIdx.other
      rdyS := true
      setPend := true }

/-- `FRAME_TICK(v)` (R242). -/
def State.frameTick (s : State) (v : Half) : State :=
  let w := s.setSample s.activeIdx s.fill.toNat v
  if s.fill.toNat < 511 then { w with fill := s.fill + 1 } else w.handOff

/-- `TICK(raw)` for a reading of the port (R236). -/
def State.tick (s : State) (raw : Half) : State :=
  if s.calDone then s.frameTick (s.convert raw) else s.calTick raw (s.convert raw)

/-- `CONFIRM_EDGE` (R241). -/
def State.confirmEdge (s : State) : State := s.requestConfirm

/-- `DELIVER_SET` (R244). -/
def State.deliverSet (s : State) : State := { s with rdyP := true, ridxP := s.readyIdx, setPend := false }

/-- `DELIVER_CLR` (R247). -/
def State.deliverClr (s : State) : State := { s with rdyS := false, clrPend := false }

end Sys2Proof.Machine
end

