-- ==== Sys2Proof/Syntax.lean ====
section
/-! DEFINITION. The command set: one constructor per row of opcode_table.json (30_encoding.md R172). -/

namespace Sys2Proof

/-- The 17 commands a host issues by writing `CMD` (R149, R172). An operand is the value of its argument field
(R171); `Instr.wellFormed` says which values the field can hold. -/
inductive Instr where
  /-- `NOP`, R204 -/
  | nop
  /-- `CADD`, R205 -/
  | cadd
  /-- `CSUB`, R206 -/
  | csub
  /-- `CMUL sh`, R207 -/
  | cmul (sh : Nat)
  /-- `CMAG2`, R208 -/
  | cmag2
  /-- `CMAG`, R209 -/
  | cmag
  /-- `CPOLAR k`, R210 -/
  | cpolar (k : Nat)
  /-- `CBFLY k`, R211 -/
  | cbfly (k : Nat)
  /-- `FFT_RUN`, R284 -/
  | fftRun
  /-- `GOE_RUN`, R303 -/
  | goeRun
  /-- `FDET`, R322 -/
  | fdet
  /-- `GDET`, R327 -/
  | gdet
  /-- `DECODE`, R341 -/
  | decode
  /-- `PROCESS`, R365 -/
  | process
  /-- `RELEASE`, R366 -/
  | release
  /-- `SEQ_RESET`, R346 -/
  | seqReset
  /-- `CAL_CONFIRM`, R370 -/
  | calConfirm
deriving DecidableEq, Repr

end Sys2Proof
end

