-- ==== Sys2Proof/WellFormed.lean ====
section
/-! DEFINITION. Which terms of `Instr` a command word can encode (30_encoding.md R171). -/

namespace Sys2Proof

/-- `SH` is a shift count 0..63 and `K` a ROM index 0..511 (R171); the other commands take no operand. -/
def Instr.wellFormed : Instr → Bool
  | .cmul sh => decide (sh < 64)
  | .cpolar k => decide (k < 512)
  | .cbfly k => decide (k < 512)
  | .nop | .cadd | .csub | .cmag2 | .cmag | .fftRun | .goeRun | .fdet | .gdet | .decode | .process | .release
  | .seqReset | .calConfirm => true

end Sys2Proof
end

