-- ==== Sys2Proof/Decode.lean ====
section
/-! DEFINITION. The command word: its decoder, total and rejecting by name, and its encoder (30_encoding.md
R171-R173). -/

namespace Sys2Proof

/-- Why a command word is illegal (R173). -/
inductive DecodeError where
  /-- fewer than four byte lanes were given: no word to decode (R101) -/
  | tooShort
  /-- a nonzero bit in [31:24] (R171, R173) -/
  | reservedBits
  /-- an `OP` that no row of the opcode map has (R173) -/
  | unassignedOp (op : Nat)
  /-- a nonzero `ARG` bit the opcode does not use (R173) -/
  | unusedArgBits (op : Nat)
deriving DecidableEq, Repr

/-- A command without operand: `ARG` must be 0 (R171). -/
def decodePlain (op arg : Nat) (i : Instr) : Except DecodeError Instr :=
  if arg = 0 then .ok i else .error (.unusedArgBits op)

/-- `SH = ARG[5:0]`, the other bits of `ARG` 0 (R171). -/
def decodeShift (op arg : Nat) (i : Nat → Instr) : Except DecodeError Instr :=
  if arg < 64 then .ok (i arg) else .error (.unusedArgBits op)

/-- `K = ARG[8:0]`, the other bits of `ARG` 0 (R171). -/
def decodeIndex (op arg : Nat) (i : Nat → Instr) : Except DecodeError Instr :=
  if arg < 512 then .ok (i arg) else .error (.unusedArgBits op)

/-- The opcode map, by the field `OP` (R172). -/
def decodeOp (op arg : Nat) : Except DecodeError Instr :=
  match op with
  | 0x00 => decodePlain op arg .nop
  | 0x01 => decodePlain op arg .cadd
  | 0x02 => decodePlain op arg .csub
  | 0x03 => decodeShift op arg .cmul
  | 0x04 => decodePlain op arg .cmag2
  | 0x05 => decodePlain op arg .cmag
  | 0x06 => decodeIndex op arg .cpolar
  | 0x07 => decodeIndex op arg .cbfly
  | 0x10 => decodePlain op arg .fftRun
  | 0x11 => decodePlain op arg .goeRun
  | 0x12 => decodePlain op arg .fdet
  | 0x13 => decodePlain op arg .gdet
  | 0x14 => decodePlain op arg .decode
  | 0x15 => decodePlain op arg .process
  | 0x16 => decodePlain op arg .release
  | 0x20 => decodePlain op arg .seqReset
  | 0x21 => decodePlain op arg .calConfirm
  | _ => .error (.unassignedOp op)

/-- Field `OP`, bits [7:0] (R171). -/
def fieldOp (w : Word) : Nat := (w.extractLsb' 0 8).toNat

/-- Field `ARG`, bits [23:8] (R171). -/
def fieldArg (w : Word) : Nat := (w.extractLsb' 8 16).toNat

/-- The reserved bits [31:24] (R171). -/
def fieldReserved (w : Word) : Nat := (w.extractLsb' 24 8).toNat

/-- The command a word written to `CMD` stands for, or why it is illegal (R171-R173). -/
def decode (w : Word) : Except DecodeError Instr :=
  if fieldReserved w = 0 then decodeOp (fieldOp w) (fieldArg w) else .error .reservedBits

/-- The word of four byte lanes, lane j carrying bits [8j+7 : 8j] (R102). -/
def wordOfLanes (b0 b1 b2 b3 : Byte) : Word := b3 ++ b2 ++ b1 ++ b0

/-- The four byte lanes of a word, lane 0 first (R102). -/
def lanesOfWord (w : Word) : List Byte :=
  [w.extractLsb' 0 8, w.extractLsb' 8 8, w.extractLsb' 16 8, w.extractLsb' 24 8]

/-- The decoder over bytes, lane 0 first: the command and the bytes after its word. -/
def decodeBytes : List Byte → Except DecodeError (Instr × List Byte)
  | b0 :: b1 :: b2 :: b3 :: rest =>
    match decode (wordOfLanes b0 b1 b2 b3) with
    | .ok i => .ok (i, rest)
    | .error e => .error e
  | _ => .error .tooShort

/-- The instruction whose bits are `w`, numbered as opcode_table.json numbers them: its word laid out in byte lanes and
given to the decoder. Every instruction is one 32-bit word (R171), so a bit above bit 31 makes it none. -/
def decodeTableWord (nbits w : Nat) : Option Instr :=
  let v := w % 2 ^ nbits
  if v < 2 ^ 32 then
    match decodeBytes (lanesOfWord (BitVec.ofNat 32 v)) with
    | .ok (i, _) => some i
    | .error _ => none
  else none

/-- `OP` of each command (R172). -/
def Instr.opcode : Instr → Nat
  | .nop => 0x00
  | .cadd => 0x01
  | .csub => 0x02
  | .cmul _ => 0x03
  | .cmag2 => 0x04
  | .cmag => 0x05
  | .cpolar _ => 0x06
  | .cbfly _ => 0x07
  | .fftRun => 0x10
  | .goeRun => 0x11
  | .fdet => 0x12
  | .gdet => 0x13
  | .decode => 0x14
  | .process => 0x15
  | .release => 0x16
  | .seqReset => 0x20
  | .calConfirm => 0x21

/-- `ARG` of each command (R171, R172). -/
def Instr.argument : Instr → Nat
  | .cmul sh => sh
  | .cpolar k => k
  | .cbfly k => k
  | .nop | .cadd | .csub | .cmag2 | .cmag | .fftRun | .goeRun | .fdet | .gdet | .decode | .process | .release
  | .seqReset | .calConfirm => 0

/-- The word of a well-formed command: `(ARG << 8) | OP` (R171, R175). -/
def encode (i : Instr) : Word := BitVec.ofNat 32 (i.argument * 256 + i.opcode)

/-- The rows of the opcode map as (mask, match) pairs, in the table's order (R172). -/
def opcodeRows : List (Word × Word) :=
  [ (0xFFFFFFFF#32, 0x00000000#32),   -- NOP
    (0xFFFFFFFF#32, 0x00000001#32),   -- CADD
    (0xFFFFFFFF#32, 0x00000002#32),   -- CSUB
    (0xFFFFC0FF#32, 0x00000003#32),   -- CMUL
    (0xFFFFFFFF#32, 0x00000004#32),   -- CMAG2
    (0xFFFFFFFF#32, 0x00000005#32),   -- CMAG
    (0xFFFE00FF#32, 0x00000006#32),   -- CPOLAR
    (0xFFFE00FF#32, 0x00000007#32),   -- CBFLY
    (0xFFFFFFFF#32, 0x00000010#32),   -- FFT_RUN
    (0xFFFFFFFF#32, 0x00000011#32),   -- GOE_RUN
    (0xFFFFFFFF#32, 0x00000012#32),   -- FDET
    (0xFFFFFFFF#32, 0x00000013#32),   -- GDET
    (0xFFFFFFFF#32, 0x00000014#32),   -- DECODE
    (0xFFFFFFFF#32, 0x00000015#32),   -- PROCESS
    (0xFFFFFFFF#32, 0x00000016#32),   -- RELEASE
    (0xFFFFFFFF#32, 0x00000020#32),   -- SEQ_RESET
    (0xFFFFFFFF#32, 0x00000021#32) ]  -- CAL_CONFIRM

end Sys2Proof
end

