-- ==== Sys2Proof/Machine/ComplexUnit.lean ====
section
/-! DEFINITION. The complex-number unit's commands (40_complex_unit.md R200, R204-R212). -/

namespace Sys2Proof.Machine

/-- `NOP` (R204): class ANY, no effect in any state. -/
def execNop (s : State) : Host.Outcome State Fault Refusal := .next s

/-- `CADD` (R205): `CU_R <- cadd(CU_A, CU_B)`. -/
def execCadd (s : State) : Host.Outcome State Fault Refusal :=
  runCuCommand (fun s => { s with cuR := storedOf (cadd (valueOf s.cuA) (valueOf s.cuB)) }) s

/-- `CSUB` (R206): `CU_R <- csub(CU_A, CU_B)`. -/
def execCsub (s : State) : Host.Outcome State Fault Refusal :=
  runCuCommand (fun s => { s with cuR := storedOf (csub (valueOf s.cuA) (valueOf s.cuB)) }) s

/-- `CMUL sh` (R207): `CU_R <- cmul(CU_A, CU_B, sh)`. -/
def execCmul (sh : Nat) (s : State) : Host.Outcome State Fault Refusal :=
  runCuCommand (fun s => { s with cuR := storedOf (cmul (valueOf s.cuA) (valueOf s.cuB) sh) }) s

/-- `CMAG2` (R208): `CU_M <- mag2(CU_A)`. -/
def execCmag2 (s : State) : Host.Outcome State Fault Refusal :=
  runCuCommand (fun s => { s with cuM := BitVec.ofNat 64 (mag2 (valueOf s.cuA)) }) s

/-- `CMAG` (R209): `CU_M <- cmag(CU_A)`. -/
def execCmag (s : State) : Host.Outcome State Fault Refusal :=
  runCuCommand (fun s => { s with cuM := BitVec.ofNat 64 (cmag (valueOf s.cuA)) }) s

/-- `CPOLAR k` (R210): the magnitude `CU_A.re` at the ROM angle k. -/
def execCpolar (k : Nat) (s : State) : Host.Outcome State Fault Refusal :=
  runCuCommand
    (fun s =>
      let r := s.cuA.re.toInt
      { s with
        cuR := storedOf { re := wrap 32 (rnd (r * (tw k).re) 14), im := wrap 32 (rnd (r * (tw k).im) 14) } })
    s

/-- `CBFLY k` (R211): `CU_R`, `CU_S` take the two outputs of the butterfly with w = TW[k]. -/
def execCbfly (k : Nat) (s : State) : Host.Outcome State Fault Refusal :=
  runCuCommand
    (fun s =>
      let r := bfly (valueOf s.cuA) (valueOf s.cuB) k
      { s with cuR := storedOf r.1, cuS := storedOf r.2 })
    s

end Sys2Proof.Machine
end

