-- ==== Sys2Proof/Machine/Dispatch.lean ====
section
/-! DEFINITION. The effect of a legal command word on the state, command by command (46_sequencer.md R367). -/

namespace Sys2Proof.Machine

def exec (i : Instr) (s : State) : Host.Outcome State Fault Refusal :=
  match i with
  | .nop => Sys2Proof.Machine.execNop s
  | .cadd => Sys2Proof.Machine.execCadd s
  | .csub => Sys2Proof.Machine.execCsub s
  | .cmul sh => Sys2Proof.Machine.execCmul sh s
  | .cmag2 => Sys2Proof.Machine.execCmag2 s
  | .cmag => Sys2Proof.Machine.execCmag s
  | .cpolar k => Sys2Proof.Machine.execCpolar k s
  | .cbfly k => Sys2Proof.Machine.execCbfly k s
  | .fftRun => Sys2Proof.Machine.execFftRun s
  | .goeRun => Sys2Proof.Machine.execGoeRun s
  | .fdet => Sys2Proof.Machine.execFdet s
  | .gdet => Sys2Proof.Machine.execGdet s
  | .decode => Sys2Proof.Machine.execDecode s
  | .process => Sys2Proof.Machine.execProcess s
  | .release => Sys2Proof.Machine.execRelease s
  | .seqReset => Sys2Proof.Machine.execSeqReset s
  | .calConfirm => Sys2Proof.Machine.execCalConfirm s

end Sys2Proof.Machine
end

