-- ==== Sys2Proof/Machine/Bus.lean ====
section
/-! DEFINITION. The host's bus: the register map, what each offset reads and what a write of it does
(20_memory.md R101-R106, 30_encoding.md R141-R170, 46_sequencer.md R364, R367). -/

namespace Sys2Proof.Machine

/-- A mapped word of the host register space (R141). -/
inductive Loc where
  | id
  | param
  | ctrl
  | status
  | event
  | irqEn
  | cmd
  | result
  | tone
  | lastChar
  | seqLen
  | fftThresh
  | goeThreshLo
  | goeThreshHi
  | maxAmp
  | halfAmp
  | rawFs
  | calSpan
  | midpoint
  | cuARe
  | cuAIm
  | cuBRe
  | cuBIm
  | cuRRe
  | cuRIm
  | cuSRe
  | cuSIm
  | cuMLo
  | cuMHi
  | energyLo (b : Nat)
  | energyHi (b : Nat)
  | grom (b : Nat)
  | seq (i : Nat)
  | frame (f : FrameIx) (n : Nat)
  | specRe (k : Nat)
  | specIm (k : Nat)
  | twrom (k : Nat)
deriving DecidableEq, Repr

/-- The registers that stand alone, by offset (R141). -/
def registerMap : List (Nat × Loc) :=
  [ (0x000, .id), (0x004, .param), (0x008, .ctrl), (0x00C, .status), (0x010, .event), (0x014, .irqEn),
    (0x018, .cmd), (0x01C, .result), (0x020, .tone), (0x024, .lastChar), (0x028, .seqLen), (0x02C, .fftThresh),
    (0x030, .goeThreshLo), (0x034, .goeThreshHi), (0x038, .maxAmp), (0x03C, .halfAmp), (0x040, .rawFs),
    (0x044, .calSpan), (0x048, .midpoint), (0x050, .cuARe), (0x054, .cuAIm), (0x058, .cuBRe), (0x05C, .cuBIm),
    (0x060, .cuRRe), (0x064, .cuRIm), (0x068, .cuSRe), (0x06C, .cuSIm), (0x070, .cuMLo), (0x074, .cuMHi) ]

/-- The windows: `ENERGY`, `GROM`, `SEQ`, the frames, `SPEC`, `TWROM`, for an offset that is a multiple of 4 (R141). -/
def windowLoc (o : Nat) : Option Loc :=
  if 0x080 ≤ o ∧ o < 0x0C0 then
    some (if o % 8 = 0 then .energyLo ((o - 0x080) / 8) else .energyHi ((o - 0x080) / 8))
  else if 0x0C0 ≤ o ∧ o < 0x0E0 then some (.grom ((o - 0x0C0) / 4))
  else if 0x400 ≤ o ∧ o < 0x800 then some (.seq ((o - 0x400) / 4))
  else if 0x1000 ≤ o ∧ o < 0x1800 then some (.frame .a ((o - 0x1000) / 4))
  else if 0x2000 ≤ o ∧ o < 0x2800 then some (.frame .b ((o - 0x2000) / 4))
  else if 0x4000 ≤ o ∧ o < 0x5000 then
    some (if o % 8 = 0 then .specRe ((o - 0x4000) / 8) else .specIm ((o - 0x4000) / 8))
  else if 0x8000 ≤ o ∧ o < 0x8800 then some (.twrom ((o - 0x8000) / 4))
  else none

/-- The mapped word an aligned offset names, if any (R141, R170). -/
def locOf (o : Nat) : Option Loc :=
  match registerMap.lookup o with
  | some l => some l
  | none => windowLoc o

/-- The mapped word an access reaches; none for the accesses the block refuses: misaligned, with a byte lane not
enabled, or unmapped (R101, R103). -/
def accessLoc (off : Half) (lanes : BitVec 4) : Option Loc :=
  if off.toNat % 4 = 0 ∧ lanes = 0xF#4 then locOf off.toNat else none

/-! ### Reads (R104) -/

/-- The committed value each mapped word reads (R142-R168). -/
def readVal (s : State) : Loc → Word
  | .id => idWord
  | .param => paramWord s.par
  | .ctrl => s.ctrlWord
  | .status => s.statusWord
  | .event => s.event.setWidth 32
  | .irqEn => s.irqEn.setWidth 32
  | .cmd => 0
  | .result => s.resultWord
  | .tone => s.tone.high ++ s.tone.low
  | .lastChar => s.lastChar.setWidth 32
  | .seqLen => s.seqLen.setWidth 32
  | .fftThresh => s.fftThresh
  | .goeThreshLo => s.goeThresh.extractLsb' 0 32
  | .goeThreshHi => s.goeThresh.extractLsb' 32 32
  | .maxAmp => s.maxAmp.setWidth 32
  | .halfAmp => s.halfAmp.signExtend 32
  | .rawFs => s.rawFs.setWidth 32
  | .calSpan => s.calSpan.setWidth 32
  | .midpoint => s.midpoint.setWidth 32
  | .cuARe => s.cuA.re
  | .cuAIm => s.cuA.im
  | .cuBRe => s.cuB.re
  | .cuBIm => s.cuB.im
  | .cuRRe => s.cuR.re
  | .cuRIm => s.cuR.im
  | .cuSRe => s.cuS.re
  | .cuSIm => s.cuS.im
  | .cuMLo => s.cuM.extractLsb' 0 32
  | .cuMHi => s.cuM.extractLsb' 32 32
  | .energyLo b => (s.energyAt b).extractLsb' 0 32
  | .energyHi b => (s.energyAt b).extractLsb' 32 32
  | .grom b => gRomWord b
  | .seq i => if i < s.seqLen.toNat then (s.seqChar i).setWidth 32 else 0
  | .frame f n => (s.sample f n).signExtend 32
  | .specRe k => (s.specBin k).re
  | .specIm k => (s.specBin k).im
  | .twrom k => twRomWord k

/-- Whether the running job writes the element of `SPEC`, `ENERGY` or `TONE` at a location (R360, R364). -/
def jobWrites (s : State) (l : Loc) : Bool :=
  match l with
  | .specRe _ | .specIm _ =>
    decide (s.job = .fftRun) || (decide (s.job = .process) && decide (s.jobAlg = .fft))
  | .energyLo _ | .energyHi _ =>
    decide (s.job = .goeRun) || (decide (s.job = .process) && decide (s.jobAlg = .goertzel))
  | .tone => decide (s.job = .fdet) || decide (s.job = .gdet) || decide (s.job = .process)
  | _ => false

/-- `BusRead(off)` (R104): the answer is the committed value, a free value for an element the running job writes
(R364; log entry 6), or an error with data 0 (R103). No register changes. -/
def State.busRead (s : State) (off : Half) (lanes : BitVec 4) : State :=
  match accessLoc off lanes with
  | none => { s with resp := .read 0 true }
  | some l =>
    if jobWrites s l then { s with resp := .read (Config.busyRead s.draws) false, draws := s.draws + 1 }
    else { s with resp := .read (readVal s l) false }

/-! ### Writes (R105) -/

/-- Access `RWM`: whether the storage of the jobs is open to host writes (R141, R364). -/
def State.rwmOpen (s : State) : Bool := !s.auto && !s.busy

/-- The low 16 bits of a written word (R142). -/
def lowHalf (d : Word) : Half := d.extractLsb' 0 16

/-- The high 16 bits of a written word (R152). -/
def highHalf (d : Word) : Half := d.extractLsb' 16 16

/-- A 64-bit value with its low word replaced (R156, R163). -/
def withLow (v : Dword) (d : Word) : Dword := v.extractLsb' 32 32 ++ d

/-- A 64-bit value with its high word replaced (R156, R163). -/
def withHigh (v : Dword) (d : Word) : Dword := d ++ v.extractLsb' 0 32

/-- `ENERGY[b] <- v` (R163). -/
def State.setEnergy (s : State) (b : Nat) (v : Dword) : State := { s with energy := s.energy.setIfInBounds b v }

/-- What a write of `d` does to a mapped word other than `CMD` (R105, R141-R168): reserved bits are ignored (R106), and
so are writes to read-only words, to the `RWC` registers once calibrated (R158), and to the `RWM` storage while it is
closed (R141). A write of `RAW_FS` is judged by its low 16 bits (log entry 10). -/
def writeReg (s : State) (l : Loc) (d : Word) : State :=
  match l with
  | .ctrl => { s with auto := d.getLsbD 0, alg := Alg.ofBit (d.getLsbD 1) }
  | .event => s.clearEvents d
  | .irqEn => { s with irqEn := d.setWidth 9 }
  | .tone => if s.rwmOpen then { s with tone := { low := lowHalf d, high := highHalf d } } else s
  | .fftThresh => { s with fftThresh := d }
  | .goeThreshLo => { s with goeThresh := withLow s.goeThresh d }
  | .goeThreshHi => { s with goeThresh := withHigh s.goeThresh d }
  | .maxAmp => if s.calDone then s else { s with maxAmp := lowHalf d }
  | .halfAmp => if s.calDone then s else { s with halfAmp := lowHalf d }
  | .rawFs => if s.calDone ∨ lowHalf d = 0 then s else { s with rawFs := lowHalf d }
  | .calSpan => if s.calDone then s else { s with calSpan := lowHalf d }
  | .cuARe => { s with cuA := { s.cuA with re := d } }
  | .cuAIm => { s with cuA := { s.cuA with im := d } }
  | .cuBRe => { s with cuB := { s.cuB with re := d } }
  | .cuBIm => { s with cuB := { s.cuB with im := d } }
  | .energyLo b => if s.rwmOpen then s.setEnergy b (withLow (s.energyAt b) d) else s
  | .energyHi b => if s.rwmOpen then s.setEnergy b (withHigh (s.energyAt b) d) else s
  | .specRe k => if s.rwmOpen then s.writeBytes (binAddr k) (wordBytes d) else s
  | .specIm k => if s.rwmOpen then s.writeBytes (binAddr k + 4) (wordBytes d) else s
  | .id | .param | .status | .cmd | .result | .lastChar | .seqLen | .midpoint | .cuRRe | .cuRIm | .cuSRe | .cuSIm
  | .cuMLo | .cuMHi | .grom _ | .seq _ | .frame _ _ | .twrom _ => s

/-- `CMD_WRITE(w)` (R367): a legal word runs its command, an illegal word signals `CMD_ERR` (R173). -/
def cmdWrite (w : Word) (s : State) : Host.Outcome State Fault Refusal :=
  match decode w with
  | .ok i => exec i s
  | .error _ => .next (s.signal .cmdErr)

/-- `BusWrite(off, data)` (R105): refused with an error and no effect (R103), or performed. -/
def busWrite (off : Half) (lanes : BitVec 4) (data : Word) (s : State) : Host.Outcome State Fault Refusal :=
  match accessLoc off lanes with
  | none => .next { s with resp := .write true }
  | some .cmd => cmdWrite data { s with resp := .write false }
  | some l => .next (writeReg { s with resp := .write false } l data)

end Sys2Proof.Machine
end

