-- ==== Sys2Proof/Machine/Agents.lean ====
section
/-! DEFINITION. The labelled transition system of 60_exceptions.md R420: which steps are enabled, and what each does. -/

namespace Sys2Proof.Machine

/-- When a step is enabled (R420). The reset pulse is an input of the environment (log entry 7). -/
def enabled (a : Action) (s : State) : Bool :=
  match a with
  | .tick _ | .confirmEdge | .busRead _ _ | .busWrite _ _ _ | .reset => true
  | .deliverSet => s.setPend
  | .deliverClr => s.clrPend
  | .autoStart => s.auto && !s.busy && s.rdyP
  | .complete => s.busy

/-- A pulse of `rst_n`: every state element takes its reset value, the RAMs hold unspecified values again, and what
the model schedules goes on (R440-R442; log entry 7). -/
def State.pulseReset (s : State) : State :=
  { State.afterReset s.par (s.epoch + 1) with draws := s.draws, agenda := s.agenda }

/-- The effect of an enabled step (R236, R241, R244, R247, R362, R363, R104, R105, R440). -/
def act (a : Action) (s : State) : Host.Outcome State Fault Refusal :=
  match a with
  | .tick raw => .next (s.tick (s.portReading raw))
  | .confirmEdge => .next s.confirmEdge
  | .deliverSet => .next s.deliverSet
  | .deliverClr => .next s.deliverClr
  | .autoStart => .next s.autoStart
  | .complete => .next s.completeJob
  | .busRead off lanes => .next (s.busRead off lanes)
  | .busWrite off lanes data => busWrite off lanes data s
  | .reset => .next s.pulseReset

/-- A scheduled step: performed if it is enabled; a step that is not enabled does not happen (R420; log entry 2). -/
def perform (a : Action) (s : State) : Host.Outcome State Fault Refusal :=
  if enabled a s then act a s else .next s

/-- The step that comes next and the state it is taken in: the head of the agenda, or, where the agenda is empty, a free
value (R420; log entry 1). -/
def State.nextStep (s : State) : Action × State :=
  match s.agenda with
  | [] => (Config.nextAction s.draws, { s with draws := s.draws + 1 })
  | a :: rest => (a, { s with agenda := rest })

/-- The write of a command word to `CMD`: what the block has in the place of a fetch (R3, R115). -/
def cmdWriteAction (w : Word) : Action := .busWrite 0x018#16 0xF#4 w

/-- Puts a command word where the next step takes it: at the head of the agenda (log entry 3). -/
def State.withCommand (s : State) (w : Word) : State := { s with agenda := cmdWriteAction w :: s.agenda }

end Sys2Proof.Machine
end

