-- ==== Sys2Proof/Machine/Step.lean ====
section
/-! DEFINITION. One step of the machine: one atomic step of one agent (00_scope.md R7). -/

namespace Sys2Proof.Machine

/-- One step: the scheduled step of one agent. -/
def step (s : State) : Host.Outcome State Fault Refusal := perform s.nextStep.1 s.nextStep.2

/-- `s` with the instruction whose bits are `w` placed where the next step takes its instruction: a write of that word
to `CMD` comes next (log entry 3). -/
def State.withFetchWord (s : State) (nbits w : Nat) : State :=
  s.withCommand (BitVec.ofNat 32 (w % 2 ^ nbits))

end Sys2Proof.Machine
end

