-- ==== Sys2Proof/Safety.lean ====
section
/-! DEFINITION. What counts as a safe state and a safe run: the invariants the spec gives the state, runs of the
labelled transition system (60_exceptions.md R420) and weak fairness (R421); and the terms the statements use: the
classes of commands (30_encoding.md R172) and the FFT's recurrence as 42_fft.md R281 writes it. -/

namespace Sys2Proof

/-- The Class column of the opcode map (R172). -/
inductive CommandClass where
  | any
  | cu
  | job
  | jobFrame
deriving DecidableEq, Repr

/-- The class of each command (R172). -/
def Instr.commandClass : Instr → CommandClass
  | .nop | .seqReset | .calConfirm => .any
  | .cadd | .csub | .cmul _ | .cmag2 | .cmag | .cpolar _ | .cbfly _ => .cu
  | .fdet | .gdet | .decode => .job
  | .fftRun | .goeRun | .process | .release => .jobFrame

end Sys2Proof

namespace Sys2Proof.Machine

/-- The jobs that read a frame or hold its token: class JOB-FRAME (R360, R172). -/
def Job.needsFrame : Job → Bool
  | .fftRun | .goeRun | .process | .release => true
  | .none | .fdet | .gdet | .decode => false

/-- The states the spec's rules keep the block in. -/
structure Inv (s : State) : Prop where
  /-- the RAMs are in their canonical form -/
  memory : Memory.wf s.mem = true
  /-- the open parameters lie in their legal ranges (R9) -/
  params : s.par.legal = true
  /-- R47: `RDY_S = SET_PEND + RDY_P + CLR_PEND` -/
  token : s.rdyS.toNat = s.setPend.toNat + s.rdyP.toNat + s.clrPend.toNat
  /-- R47: a frame handed out is not the one being filled -/
  otherFrame : s.setPend = true ∨ s.rdyP = true → s.readyIdx ≠ s.activeIdx
  /-- R47: the P domain's copy of the index agrees -/
  sameIndex : s.rdyP = true → s.ridxP = s.readyIdx
  /-- R40: `RAW_FS` is never 0 -/
  rawFs : s.rawFs ≠ 0
  /-- R37: `BAND` is 0..9 -/
  band : s.band.toNat ≤ 9
  /-- R54: `SEQ_LEN` is 0..SEQ_CAP -/
  sequence : s.seqLen.toNat ≤ s.seqCap
  /-- R241, R370: no confirmation is pending once calibrated -/
  confirmed : s.calDone = true → s.confirmPend = false
  /-- R240, R235: before calibration ends no frame has been begun or handed off -/
  uncalibrated : s.calDone = false → s.fill = 0 ∧ s.rdyS = false
  /-- R245: a job that needs the frame holds its token, and has latched its index -/
  jobFrame : s.job.needsFrame = true → s.rdyP = true ∧ s.jobFidx = s.ridxP

/-- A run: each step is enabled in the state where it is taken (R420). -/
structure IsRun (states : Nat → State) (actions : Nat → Action) : Prop where
  isEnabled : ∀ n, enabled (actions n) (states n) = true
  follows : ∀ n, act (actions n) (states n) = .next (states (n + 1))

/-- Weak fairness to one step: if it stays enabled, it is eventually taken (R421). -/
def WeaklyFair (states : Nat → State) (actions : Nat → Action) (a : Action) : Prop :=
  ∀ n, (∀ m, n ≤ m → enabled a (states m) = true) → ∃ m, n ≤ m ∧ actions m = a

/-- A fair run (R421): weakly fair to the four internal steps. -/
structure FairRun (states : Nat → State) (actions : Nat → Action) : Prop extends IsRun states actions where
  fairSet : WeaklyFair states actions .deliverSet
  fairClr : WeaklyFair states actions .deliverClr
  fairComplete : WeaklyFair states actions .complete
  fairStart : WeaklyFair states actions .autoStart

/-- Scheduled steps performed one after the other. -/
def performAll : List Action → State → Host.Outcome State Fault Refusal
  | [], s => .next s
  | a :: rest, s =>
    match perform a s with
    | .next t => performAll rest t
    | .fault f => .fault f
    | .refused r => .refused r

/-- A full-width read of the offset `off` answers the word `w` without `err`, and changes nothing but the recorded answer
(R101, R104; log entry 8). -/
def Answers (s : State) (off : Half) (w : Word) : Prop :=
  act (.busRead off 0xF#4) s = .next { s with resp := .read w false }

/-- `n` reads of `STATUS`: the passes of a host's `WAITIDLE` loop (R175). -/
def statusPolls (n : Nat) : List Action := List.replicate n (.busRead 0x00C#16 0xF#4)

/-- `Y_s[j][k]` of R281, by recursion on the stage: with `L = 2^s` and `H = 256 / L`, the two outputs of
`BFLY(Y_s[j][k], Y_s[j + H][k], k·H)` are `Y_{s+1}[j][k]` and `Y_{s+1}[j][k + L]`. -/
def subTransform (x : Nat → Int) : Nat → Nat → Nat → Cx
  | 0, j, _ => { re := x j, im := 0 }
  | s + 1, j, k =>
    if k < 2 ^ s then
      (bfly (subTransform x s j k) (subTransform x s (j + 256 / 2 ^ s) k) (k * (256 / 2 ^ s))).1
    else
      (bfly (subTransform x s j (k - 2 ^ s)) (subTransform x s (j + 256 / 2 ^ s) (k - 2 ^ s))
        ((k - 2 ^ s) * (256 / 2 ^ s))).2

/-- The butterfly without any wrap: the product rounded once per component, the additions exact (R282, R285). -/
def exactBfly (a b : Cx) (m : Nat) : Cx × Cx :=
  let t : Cx :=
    { re := rnd (b.re * (tw m).re - b.im * (tw m).im) 14, im := rnd (b.re * (tw m).im + b.im * (tw m).re) 14 }
  ({ re := a.re + t.re, im := a.im + t.im }, { re := a.re - t.re, im := a.im - t.im })

/-- The recurrence of R281 with no wrap at all: "the exact recurrence with only the `RND(·, 14)` roundings" (R285). -/
def exactSubTransform (x : Nat → Int) : Nat → Nat → Nat → Cx
  | 0, j, _ => { re := x j, im := 0 }
  | s + 1, j, k =>
    if k < 2 ^ s then
      (exactBfly (exactSubTransform x s j k) (exactSubTransform x s (j + 256 / 2 ^ s) k) (k * (256 / 2 ^ s))).1
    else
      (exactBfly (exactSubTransform x s j (k - 2 ^ s)) (exactSubTransform x s (j + 256 / 2 ^ s) (k - 2 ^ s))
        ((k - 2 ^ s) * (256 / 2 ^ s))).2

end Sys2Proof.Machine
end

