-- ==== Sys2Proof/Certificates/Slice0/Obligations.lean ====
section
/-! DEFINITION. The statements for the provers. Each docstring names the rules of the spec that it formalises. -/

open Sys2Proof Sys2Proof.Machine

/-! ### The command word -/

/-- R171, R172: the word of every well-formed command decodes to that command, as a word and as bytes. -/
def Obligations.EncodeDecodeRoundTrip : Prop :=
  ∀ i : Instr, i.wellFormed = true →
    decode (encode i) = .ok i ∧
      ∀ rest : List Byte, decodeBytes (lanesOfWord (encode i) ++ rest) = .ok (i, rest)

/-- R171-R173: a word that decodes is the word of the command it decodes to, and that command is well formed: the decoder
drops no bit. -/
def Obligations.DecodeEncodeExact : Prop :=
  ∀ (w : Word) (i : Instr), decode w = .ok i → i.wellFormed = true ∧ encode i = w

/-- R172: a word is legal exactly if some row of the opcode map selects it; no two rows select the same word; and the
row selected is the one whose `match` holds the opcode of the decoded command. -/
def Obligations.DecoderSelectsTableRow : Prop :=
  ∀ w : Word,
    ((∃ i, decode w = .ok i) ↔ ∃ row ∈ opcodeRows, w &&& row.1 = row.2) ∧
      (∀ row ∈ opcodeRows, ∀ row' ∈ opcodeRows, w &&& row.1 = row.2 → w &&& row'.1 = row'.2 → row = row') ∧
      ∀ i, decode w = .ok i → ∃ row ∈ opcodeRows, w &&& row.1 = row.2 ∧ row.2 = BitVec.ofNat 32 i.opcode

/-- R173: a word that matches no row is illegal, and writing it to `CMD` signals `CMD_ERR` and changes nothing else;
an unassigned `OP`, a nonzero bit in [31:24] and a nonzero unused `ARG` bit are such words. The access itself ends without
`err` (R408); that the answer is recorded in `resp` is the model's choice (log entry 8). -/
def Obligations.IllegalWordSignalsCmdErr : Prop :=
  (∀ w : Word, (∀ row ∈ opcodeRows, w &&& row.1 ≠ row.2) → ∀ s : State,
      busWrite 0x018#16 0xF#4 w s = .next { s with event := s.event ||| 0x010#9, resp := .write false }) ∧
    ∀ w : Word,
      ((0x08 ≤ fieldOp w ∧ fieldOp w ≤ 0x0F) ∨ (0x17 ≤ fieldOp w ∧ fieldOp w ≤ 0x1F) ∨ 0x22 ≤ fieldOp w
        ∨ fieldReserved w ≠ 0
        ∨ (fieldOp w = 0x03 ∧ 64 ≤ fieldArg w)
        ∨ ((fieldOp w = 0x06 ∨ fieldOp w = 0x07) ∧ 512 ≤ fieldArg w)
        ∨ (fieldOp w ≠ 0x03 ∧ fieldOp w ≠ 0x06 ∧ fieldOp w ≠ 0x07 ∧ fieldArg w ≠ 0)) →
      ∀ row ∈ opcodeRows, w &&& row.1 ≠ row.2

/-- R171, R172: words written out from the table decode to the commands they stand for. -/
def Obligations.SampleWordsDecode : Prop :=
  decode 0x00000001#32 = .ok .cadd ∧ decode 0x00000E03#32 = .ok (.cmul 14) ∧
    decode 0x00004006#32 = .ok (.cpolar 64) ∧ decode 0x0001FF07#32 = .ok (.cbfly 511) ∧
    decode 0x00000010#32 = .ok .fftRun ∧ decode 0x00000011#32 = .ok .goeRun ∧
    decode 0x00000013#32 = .ok .gdet ∧ decode 0x00000014#32 = .ok .decode ∧
    decode 0x00000015#32 = .ok .process ∧ decode 0x00000021#32 = .ok .calConfirm

/-! ### The step -/

/-- R3, R115, R367: where a write of a command word to `CMD` comes next, a step runs the decoded command, with the bus's
answer recorded and the schedule moved on; `withFetchWord` puts the word there. The agenda and the recorded answer are the
model's own (log entries 1, 3, 8). -/
def Obligations.StepRunsDecodedCommand : Prop :=
  (∀ (s : State) (w : Word) (i : Instr) (rest : List Action),
      s.agenda = cmdWriteAction w :: rest → decode w = .ok i →
      step s = exec i { s with agenda := rest, resp := .write false }) ∧
    ∀ (s : State) (w : Word) (i : Instr), decode w = .ok i →
      step (s.withFetchWord 32 w.toNat) = exec i { s with resp := .write false }

/-- R420: the table of enabling conditions. R420 leaves open which enabled step comes next. That it is the head of the
agenda is the model's choice (log entry 1), and so is that a scheduled step that is not enabled changes nothing but the
schedule (log entry 2). -/
def Obligations.StepTakesScheduledAction : Prop :=
  (∀ (s : State) (a : Action) (rest : List Action), s.agenda = a :: rest →
      (enabled a { s with agenda := rest } = true → step s = act a { s with agenda := rest }) ∧
        (enabled a { s with agenda := rest } = false → step s = .next { s with agenda := rest })) ∧
    ∀ s : State,
      (∀ raw, enabled (.tick raw) s = true) ∧ enabled .confirmEdge s = true ∧
        (∀ off lanes, enabled (.busRead off lanes) s = true) ∧
        (∀ off lanes d, enabled (.busWrite off lanes d) s = true) ∧
        (enabled .deliverSet s = true ↔ s.setPend = true) ∧ (enabled .deliverClr s = true ↔ s.clrPend = true) ∧
        (enabled .autoStart s = true ↔ s.auto = true ∧ s.job = .none ∧ s.rdyP = true) ∧
        (enabled .complete s = true ↔ s.job ≠ .none)

/-- R400: no condition stops any agent: every step answers a next state. -/
def Obligations.StepAlwaysAnswersNext : Prop :=
  ∀ s : State, ∃ t, step s = .next t

/-! ### The complex unit -/

/-- R204: `NOP` is the word 0 alone, is accepted in every state and changes no state. -/
def Obligations.NopChangesNothing : Prop :=
  (∀ w : Word, decode w = .ok .nop ↔ w = 0x00000000#32) ∧ ∀ s : State, exec .nop s = .next s

/-- R205, R206: `CADD` and `CSUB`: each component of `CU_R` is the sum or the difference modulo 2^32; while busy,
`CMD_ERR`. Every other register and every byte of memory keeps its value. -/
def Obligations.AddAndSubtract : Prop :=
  (∀ w : Word, decode w = .ok .cadd ↔ w = 0x00000001#32) ∧
    (∀ w : Word, decode w = .ok .csub ↔ w = 0x00000002#32) ∧
    ∀ s : State,
      (s.job = .none →
        exec .cadd s = .next { s with cuR := { re := s.cuA.re + s.cuB.re, im := s.cuA.im + s.cuB.im } } ∧
        exec .csub s = .next { s with cuR := { re := s.cuA.re - s.cuB.re, im := s.cuA.im - s.cuB.im } }) ∧
      (s.job ≠ .none →
        exec .cadd s = .next { s with event := s.event ||| 0x010#9 } ∧
        exec .csub s = .next { s with event := s.event ||| 0x010#9 })

/-- R207 (with R12 and R201): `CMUL sh` forms the exact complex product, rounds it once by `sh` bits with halves up, and
stores it modulo 2^32; while busy, `CMD_ERR`. -/
def Obligations.MultiplyRoundsOnce : Prop :=
  (∀ (w : Word) (sh : Nat), decode w = .ok (.cmul sh) ↔ sh < 64 ∧ w = BitVec.ofNat 32 (sh * 256 + 3)) ∧
    ∀ (s : State) (sh : Nat), sh < 64 →
      (s.job = .none →
        exec (.cmul sh) s = .next
          { s with
            cuR :=
              let p := s.cuA.re.toInt * s.cuB.re.toInt - s.cuA.im.toInt * s.cuB.im.toInt
              let q := s.cuA.re.toInt * s.cuB.im.toInt + s.cuA.im.toInt * s.cuB.re.toInt
              if sh = 0 then { re := BitVec.ofInt 32 p, im := BitVec.ofInt 32 q }
              else
                { re := BitVec.ofInt 32 ((p + 2 ^ (sh - 1)) / 2 ^ sh)
                  im := BitVec.ofInt 32 ((q + 2 ^ (sh - 1)) / 2 ^ sh) } }) ∧
      (s.job ≠ .none → exec (.cmul sh) s = .next { s with event := s.event ||| 0x010#9 })

/-- R208: `CMAG2` leaves the exact magnitude squared in `CU_M`, at most 2^63, never wrapped; while busy, `CMD_ERR`. -/
def Obligations.MagnitudeSquaredIsExact : Prop :=
  (∀ w : Word, decode w = .ok .cmag2 ↔ w = 0x00000004#32) ∧
    ∀ s : State,
      (s.job = .none →
        ∃ t, exec .cmag2 s = .next t ∧ t = { s with cuM := t.cuM } ∧
          (t.cuM.toNat : Int) = s.cuA.re.toInt * s.cuA.re.toInt + s.cuA.im.toInt * s.cuA.im.toInt ∧
          t.cuM.toNat ≤ 2 ^ 63) ∧
      (s.job ≠ .none → exec .cmag2 s = .next { s with event := s.event ||| 0x010#9 })

/-- R209: `CMAG` leaves the floor square root of the magnitude squared in `CU_M`, at most 3037000499, so that `CU_M_HI`
is 0; while busy, `CMD_ERR`. -/
def Obligations.MagnitudeIsFloorRoot : Prop :=
  (∀ w : Word, decode w = .ok .cmag ↔ w = 0x00000005#32) ∧
    ∀ s : State,
      (s.job = .none →
        ∃ t, exec .cmag s = .next t ∧ t = { s with cuM := t.cuM } ∧
          ((t.cuM.toNat : Int) * t.cuM.toNat
            ≤ s.cuA.re.toInt * s.cuA.re.toInt + s.cuA.im.toInt * s.cuA.im.toInt) ∧
          (s.cuA.re.toInt * s.cuA.re.toInt + s.cuA.im.toInt * s.cuA.im.toInt
            < ((t.cuM.toNat : Int) + 1) * (t.cuM.toNat + 1)) ∧
          t.cuM.toNat ≤ 3037000499 ∧ t.cuM.extractLsb' 32 32 = 0#32) ∧
      (s.job ≠ .none → exec .cmag s = .next { s with event := s.event ||| 0x010#9 })

/-- R210: `CPOLAR k` puts the magnitude `CU_A.re` at the ROM angle k, each component rounded once and stored modulo 2^32,
which is `cmul14((r, 0), TW[k])`; while busy, `CMD_ERR`. -/
def Obligations.PolarAtRomAngle : Prop :=
  (∀ (w : Word) (k : Nat), decode w = .ok (.cpolar k) ↔ k < 512 ∧ w = BitVec.ofNat 32 (k * 256 + 6)) ∧
    ∀ (s : State) (k : Nat), k < 512 →
      (s.job = .none →
        exec (.cpolar k) s = .next
          { s with
            cuR :=
              { re := BitVec.ofInt 32 ((s.cuA.re.toInt * (tw k).re + 8192) / 16384)
                im := BitVec.ofInt 32 ((s.cuA.re.toInt * (tw k).im + 8192) / 16384) } } ∧
        exec (.cpolar k) s = .next
          { s with cuR := storedOf (cmul14 { re := s.cuA.re.toInt, im := 0 } (tw k)) }) ∧
      (s.job ≠ .none → exec (.cpolar k) s = .next { s with event := s.event ||| 0x010#9 })

/-- R211: `CBFLY k` leaves a + w·b in `CU_R` and a − w·b in `CU_S`, w = TW[k], the product rounded once per component;
it is the engine's butterfly; while busy, `CMD_ERR`. -/
def Obligations.ButterflyOfRegisters : Prop :=
  (∀ (w : Word) (k : Nat), decode w = .ok (.cbfly k) ↔ k < 512 ∧ w = BitVec.ofNat 32 (k * 256 + 7)) ∧
    ∀ (s : State) (k : Nat), k < 512 →
      (s.job = .none →
        (∃ t, exec (.cbfly k) s = .next t ∧ t = { s with cuR := t.cuR, cuS := t.cuS } ∧
          let tr := (s.cuB.re.toInt * (tw k).re - s.cuB.im.toInt * (tw k).im + 8192) / 16384
          let ti := (s.cuB.re.toInt * (tw k).im + s.cuB.im.toInt * (tw k).re + 8192) / 16384
          t.cuR = { re := s.cuA.re + BitVec.ofInt 32 tr, im := s.cuA.im + BitVec.ofInt 32 ti } ∧
          t.cuS = { re := s.cuA.re - BitVec.ofInt 32 tr, im := s.cuA.im - BitVec.ofInt 32 ti } ∧
          t.cuR = storedOf (bfly (valueOf s.cuA) (valueOf s.cuB) k).1 ∧
          t.cuS = storedOf (bfly (valueOf s.cuA) (valueOf s.cuB) k).2)) ∧
      (s.job ≠ .none → exec (.cbfly k) s = .next { s with event := s.event ||| 0x010#9 })

/-! ### Commands that start a job, and the commands of class ANY -/

/-- R361, R367: an accepted job command sets `JOB` and latches `ALG`, the two thresholds and the frame index, and changes
nothing else. -/
def Obligations.JobCommandsStart : Prop :=
  ∀ s : State, s.auto = false → s.job = .none →
    (∀ p ∈ [(Instr.fdet, Job.fdet), (.gdet, .gdet), (.decode, .decode)],
      exec p.1 s = .next
        { s with job := p.2, jobAlg := s.alg, jobFt := s.fftThresh, jobGt := s.goeThresh, jobFidx := s.ridxP }) ∧
    (s.rdyP = true →
      ∀ p ∈ [(Instr.fftRun, Job.fftRun), (.goeRun, .goeRun), (.process, .process), (.release, .release)],
        exec p.1 s = .next
          { s with job := p.2, jobAlg := s.alg, jobFt := s.fftThresh, jobGt := s.goeThresh, jobFidx := s.ridxP })

/-- R346: `SEQ_RESET` is accepted in every state, empties the sequence and sets `LAST_CHAR` to 'N', changes nothing else,
and every entry of the window then reads 0. The recorded answer `resp` of that read is the model's own (log entry 8). -/
def Obligations.SequenceReset : Prop :=
  (∀ w : Word, decode w = .ok .seqReset ↔ w = 0x00000020#32) ∧
    ∀ s : State,
      exec .seqReset s = .next { s with seqLen := 0#8, lastChar := 0x4E#8 } ∧
        ∀ i, i < 256 → Answers { s with seqLen := 0#8, lastChar := 0x4E#8 } (BitVec.ofNat 16 (0x400 + 4 * i)) 0#32

/-- R370: `CAL_CONFIRM` is accepted in every state: it sets `CONFIRM_PEND` while uncalibrated and has no effect
afterwards; it is the same request as a pin edge. -/
def Obligations.CalibrationConfirm : Prop :=
  (∀ w : Word, decode w = .ok .calConfirm ↔ w = 0x00000021#32) ∧
    ∀ s : State,
      (s.calDone = false → exec .calConfirm s = .next { s with confirmPend := true }) ∧
        (s.calDone = true → exec .calConfirm s = .next s) ∧
        exec .calConfirm s = act .confirmEdge s

/-- R368: the table of preconditions. A command is accepted (no event) or answers `CMD_ERR` and changes nothing else. -/
def Obligations.CommandAcceptanceTable : Prop :=
  (∀ (i : Instr) (s : State),
    (i.commandClass = .any → ∃ t, exec i s = .next t ∧ t.event = s.event) ∧
    (i.commandClass = .cu →
      (s.job = .none → ∃ t, exec i s = .next t ∧ t.event = s.event) ∧
      (s.job ≠ .none → exec i s = .next { s with event := s.event ||| 0x010#9 })) ∧
    (i.commandClass = .job →
      (s.auto = false ∧ s.job = .none → ∃ t, exec i s = .next t ∧ t.event = s.event) ∧
      (s.auto = true ∨ s.job ≠ .none → exec i s = .next { s with event := s.event ||| 0x010#9 })) ∧
    (i.commandClass = .jobFrame →
      (s.auto = false ∧ s.job = .none ∧ s.rdyP = true → ∃ t, exec i s = .next t ∧ t.event = s.event) ∧
      (s.auto = true ∨ s.job ≠ .none ∨ s.rdyP = false →
        exec i s = .next { s with event := s.event ||| 0x010#9 }))) ∧
  [Instr.nop, .seqReset, .calConfirm].map Instr.commandClass = List.replicate 3 .any ∧
  [Instr.cadd, .csub, .cmag2, .cmag].map Instr.commandClass = List.replicate 4 .cu ∧
  (∀ n, [Instr.cmul n, .cpolar n, .cbfly n].map Instr.commandClass = List.replicate 3 .cu) ∧
  [Instr.fdet, .gdet, .decode].map Instr.commandClass = List.replicate 3 .job ∧
  [Instr.fftRun, .goeRun, .process, .release].map Instr.commandClass = List.replicate 4 .jobFrame

/-- R200, R346, R361, R370, R408: what no command write changes. Every byte of memory reads as before, and every
register but the complex results, `EVENT`, the job and its latches, `SEQ_LEN`, `LAST_CHAR` and `CONFIRM_PEND` keeps
its value. -/
def Obligations.CommandWriteFrame : Prop :=
  ∀ (i : Instr) (s t : State), exec i s = .next t →
    (∀ a, t.readByte a = s.readByte a) ∧
      t = { s with
            cuR := t.cuR, cuS := t.cuS, cuM := t.cuM, event := t.event, job := t.job, jobAlg := t.jobAlg,
            jobFt := t.jobFt, jobGt := t.jobGt, jobFidx := t.jobFidx, seqLen := t.seqLen, lastChar := t.lastChar,
            confirmPend := t.confirmPend }

/-! ### The commits of the jobs -/

/-- R284, R363: the commit of `FFT_RUN` stores the transform of the frame `JOB_FIDX` in the 512 bins and ends the job;
every byte outside the spectrum, and every register, keeps its value. -/
def Obligations.FftRunCommits : Prop :=
  ∀ s : State, s.job = .fftRun →
    enabled .complete s = true ∧
    ∃ t, act .complete s = .next t ∧
      (∀ k, k < 512 → some (t.specBin k) = (fft (s.frameSamples s.jobFidx))[k]?.map storedOf) ∧
      (∀ a, (a < 0x4000 ∨ 0x5000 ≤ a) → t.readByte a = s.readByte a) ∧
      { t with mem := s.mem } = { s with job := .none }

/-- R302, R303, R363: the commit of `GOE_RUN` stores the eight energies of the frame `JOB_FIDX`, each from its own
coefficient, and ends the job; memory and every other register keep their values. -/
def Obligations.GoertzelRunCommits : Prop :=
  ∀ s : State, s.job = .goeRun →
    enabled .complete s = true ∧
    ∃ t, act .complete s = .next t ∧ t = { s with energy := t.energy, job := .none } ∧
      ∀ p ∈ [(0, 28034), (1, 26932), (2, 25727), (3, 24151), (4, 18997), (5, 16267), (6, 13006), (7, 9196)],
        let q := goertzelState (s.frameSamples s.jobFidx) p.2
        t.energyAt p.1 = BitVec.ofInt 64 (q.1 * q.1 + q.2 * q.2 - (q.1 * q.2 * p.2 + 8192) / 16384)

/-- R322, R327, R341, R363: the commits of `FDET`, `GDET` and `DECODE`: the detectors write only `TONE`, from the
committed spectrum or energies and the latched threshold; `DECODE` performs one decoder step on `TONE`. -/
def Obligations.DetectorAndDecoderJobsCommit : Prop :=
  ∀ s : State,
    (s.job = .fdet →
      act .complete s = .next
        { s with
          tone :=
            { low := BitVec.ofInt 16
                (fdetGroup s.par.fdetRef s.jobFt.toNat (fun k => valueOf (s.specBin k)) [697, 770, 852, 941])
              high := BitVec.ofInt 16
                (fdetGroup s.par.fdetRef s.jobFt.toNat (fun k => valueOf (s.specBin k)) [1209, 1336, 1477, 1633]) }
          job := .none }) ∧
    (s.job = .gdet →
      act .complete s = .next
        { s with
          tone :=
            { low := BitVec.ofInt 16 (gdetPair s.jobGt.toNat s.energyPairs).1
              high := BitVec.ofInt 16 (gdetPair s.jobGt.toNat s.energyPairs).2 }
          job := .none }) ∧
    (s.job = .decode →
      act .complete s = .next { s.decodeStep s.tone.low.toInt s.tone.high.toInt with job := .none })

/-- R365: the commit of `PROCESS`: the selected engine and its detector, one decoder step on the new tone pair, and the
release of the token; the engine that is not selected keeps its storage, and no frame is written. -/
def Obligations.ProcessCommits : Prop :=
  ∀ s : State, s.job = .process → s.rdyP = true →
    ∃ t, act .complete s = .next t ∧
      t = { s with
            mem := t.mem, energy := t.energy, tone := t.tone, lastChar := t.lastChar, seqLen := t.seqLen,
            resultCode := t.resultCode, resultSym := t.resultSym, event := t.event, rdyP := false, clrPend := true,
            job := .none } ∧
      (s.jobAlg = .fft →
        t.energy = s.energy ∧
        (∀ k, k < 512 → some (t.specBin k) = (fft (s.frameSamples s.jobFidx))[k]?.map storedOf) ∧
        t.tone.low = BitVec.ofInt 16
          (fdetGroup s.par.fdetRef s.jobFt.toNat (fun k => valueOf (t.specBin k)) Config.lowFreqs) ∧
        t.tone.high = BitVec.ofInt 16
          (fdetGroup s.par.fdetRef s.jobFt.toNat (fun k => valueOf (t.specBin k)) Config.highFreqs)) ∧
      (s.jobAlg = .goertzel →
        (∀ a, (0x4000 ≤ a ∧ a < 0x5000) → t.readByte a = s.readByte a) ∧
        (∀ b, b < 8 → t.energyAt b = resonatorEnergy (s.frameSamples s.jobFidx) b) ∧
        t.tone.low = BitVec.ofInt 16 (gdetPair s.jobGt.toNat t.energyPairs).1 ∧
        t.tone.high = BitVec.ofInt 16 (gdetPair s.jobGt.toNat t.energyPairs).2) ∧
      (∀ f n, n < 512 → t.sample f n = s.sample f n) ∧
      let u := s.decodeStep t.tone.low.toInt t.tone.high.toInt
      t.lastChar = u.lastChar ∧ t.seqLen = u.seqLen ∧ t.resultCode = u.resultCode ∧ t.resultSym = u.resultSym ∧
        t.event = u.event ||| 0x040#9 ∧ ∀ a, a < 0x4000 ∨ 0x5000 ≤ a → t.readByte a = u.readByte a

/-- R246, R366: the commit of `RELEASE` returns the token and signals `FRAME_DONE`; without the token nothing but the job
ends. -/
def Obligations.ReleaseCommits : Prop :=
  ∀ s : State, s.job = .release →
    (s.rdyP = true →
      act .complete s = .next
        { s with rdyP := false, clrPend := true, event := s.event ||| 0x040#9, job := .none }) ∧
    (s.rdyP = false → act .complete s = .next { s with job := .none })

/-! ### The decoder -/

/-- R341, steps 1 to 3: silence is noise, and is tested before ambiguity; an ambiguous pair is multitone; a pair that is
not of a low-group and a high-group frequency is noise. -/
def Obligations.DecoderRejectsNonKeys : Prop :=
  ∀ (s : State) (lo hi : Int),
    (lo = 0 ∨ hi = 0 →
      s.decodeStep lo hi = { s with lastChar := 0x4E#8, resultCode := .noise, resultSym := 0#8 }) ∧
    (lo ≠ 0 → hi ≠ 0 → lo = -1 ∨ hi = -1 →
      s.decodeStep lo hi =
        { s with
          lastChar := 0x4E#8, resultCode := .multitone, resultSym := 0#8, event := s.event ||| 0x001#9 }) ∧
    (lo ≠ 0 → hi ≠ 0 → lo ≠ -1 → hi ≠ -1 →
      lo ∉ [(697 : Int), 770, 852, 941] ∨ hi ∉ [(1209 : Int), 1336, 1477, 1633] →
      s.decodeStep lo hi = { s with lastChar := 0x4E#8, resultCode := .noise, resultSym := 0#8 })

/-- R340, R341, steps 3 to 5: a key's pair resolves to its symbol, which is held, appended, or overflows. -/
def Obligations.DecoderResolvesKeys : Prop :=
  ∀ (s : State) (r c : Fin 4),
    let lo : Int := [697, 770, 852, 941][r]
    let hi : Int := [1209, 1336, 1477, 1633][c]
    let sym : Byte :=
      [[0x31#8, 0x32#8, 0x33#8, 0x41#8], [0x34#8, 0x35#8, 0x36#8, 0x42#8], [0x37#8, 0x38#8, 0x39#8, 0x43#8],
        [0x2A#8, 0x30#8, 0x23#8, 0x44#8]].flatten.getD (4 * r + c) 0#8
    (sym = s.lastChar → s.decodeStep lo hi = { s with resultCode := .hold, resultSym := sym }) ∧
    (sym ≠ s.lastChar → s.seqLen.toNat < s.seqCap →
      ∃ t, s.decodeStep lo hi = t ∧
        { t with mem := s.mem } =
          { s with
            seqLen := s.seqLen + 1, lastChar := sym, resultCode := .accepted, resultSym := sym,
            event := s.event ||| 0x020#9 } ∧
        t.readByte (0x400 + 4 * s.seqLen.toNat) = sym ∧
        ∀ a, a ≠ 0x400 + 4 * s.seqLen.toNat → t.readByte a = s.readByte a) ∧
    (sym ≠ s.lastChar → ¬ s.seqLen.toNat < s.seqCap →
      s.decodeStep lo hi =
        { s with resultCode := .overflow, resultSym := sym, event := s.event ||| 0x002#9 })

/-- R347: from 'N' with room left, each of the 16 keys appends its own symbol, and the map from the pair of frequencies to
the symbol is injective. -/
def Obligations.KeysRoundTrip : Prop :=
  (∀ (s : State) (r c : Fin 4), s.lastChar = 0x4E#8 → s.seqLen.toNat < s.seqCap →
    let t := s.decodeStep ([697, 770, 852, 941][r] : Int) ([1209, 1336, 1477, 1633][c] : Int)
    t.seqLen = s.seqLen + 1 ∧ t.seqChar s.seqLen.toNat = keyCode r c ∧
      ∀ i, i ≠ s.seqLen.toNat → t.seqChar i = s.seqChar i) ∧
    ∀ r c r' c' : Fin 4, keyCode r c = keyCode r' c' → r = r' ∧ c = c'

/-- R348: a run of one or more decodes of one key's pair, begun with another `LAST_CHAR` and with room left, appends
exactly one symbol: the first decode is accepted and every later one is held. -/
def Obligations.RepeatedToneAppendsOnce : Prop :=
  ∀ (s : State) (r c : Fin 4) (k : Nat), keyCode r c ≠ s.lastChar → s.seqLen.toNat < s.seqCap →
    let t := (fun u : State =>
      u.decodeStep ([697, 770, 852, 941][r] : Int) ([1209, 1336, 1477, 1633][c] : Int))^[k + 1] s
    t.seqLen = s.seqLen + 1 ∧ t.lastChar = keyCode r c ∧ t.seqChar s.seqLen.toNat = keyCode r c ∧
      (∀ i, i ≠ s.seqLen.toNat → t.seqChar i = s.seqChar i) ∧
      t.resultCode = (if k = 0 then .accepted else .hold) ∧ t.event = s.event ||| 0x020#9

/-- R341, R349: from an empty sequence exactly `SEQ_CAP` symbols, decoded one after the other and each different from the
one before it, are appended in order; the next different symbol overflows, leaves the buffer, `SEQ_LEN` and `LAST_CHAR`
as they are, and does so again at each further decode of that symbol. -/
def Obligations.OverflowAtCapacity : Prop :=
  ∀ (s : State) (keys : List (Fin 4 × Fin 4)), s.par.legal = true → s.seqLen = 0#8 → keys.length = s.seqCap →
    ((s.lastChar :: keys.map fun k => keyCode k.1 k.2).IsChain (· ≠ ·)) →
    let decodeKey := fun (u : State) (k : Fin 4 × Fin 4) =>
      u.decodeStep ([697, 770, 852, 941][k.1] : Int) ([1209, 1336, 1477, 1633][k.2] : Int)
    let t := keys.foldl decodeKey s
    t.seqLen.toNat = s.seqCap ∧ t.resultCode = .accepted ∧
      (∀ i, i < s.seqCap → some (t.seqChar i) = keys[i]?.map fun k => keyCode k.1 k.2) ∧
      ∀ (k : Fin 4 × Fin 4) (n : Nat), keyCode k.1 k.2 ≠ t.lastChar →
        (fun u => decodeKey u k)^[n + 1] t =
          { t with resultCode := .overflow, resultSym := keyCode k.1 k.2, event := t.event ||| 0x002#9 }

/-! ### The engines -/

/-- R281, R283: the transform the engine commits is the recurrence over sub-transforms, bin by bin in natural order. -/
def Obligations.FftIsTheRecurrence : Prop :=
  ∀ x : List Int, x.length = 512 →
    (fft x).length = 512 ∧ ∀ k, k < 512 → (fft x)[k]? = some (subTransform (fun n => x.getD n 0) 9 0 k)

/-- R288, first case for every amplitude: an impulse at sample 0 has that amplitude in every bin. -/
def Obligations.FftOfImpulse : Prop :=
  ∀ v : Int, -32768 ≤ v → v ≤ 32767 →
    fft (v :: List.replicate 511 0) = List.replicate 512 { re := v, im := 0 }

/-- R285: for 16-bit samples every component of every sub-transform of R281 is below 2^25 in magnitude, so that no wrap changes a
value, and the transform is the exact recurrence with only its roundings; the all-minimum frame reaches −2^24. -/
def Obligations.FftNeverOverflows : Prop :=
  (∀ x : Nat → Int, (∀ n, -32768 ≤ x n ∧ x n ≤ 32767) → ∀ s j k, s ≤ 9 →
    j < 512 / 2 ^ s → k < 2 ^ s →
    (subTransform x s j k).re.natAbs < 2 ^ 25 ∧ (subTransform x s j k).im.natAbs < 2 ^ 25 ∧
      subTransform x s j k = exactSubTransform x s j k) ∧
    subTransform (fun _ => -32768) 9 0 0 = { re := -16777216, im := 0 }

/-- R301, R304: the resonator's two outputs are the last two states of the recurrence over the first 508 samples; for
16-bit samples and each coefficient of the ROM they are those of the recurrence without any wrap, whose states stay within
626·2^15. -/
def Obligations.ResonatorRecurrence : Prop :=
  (∀ (x : List Int) (c : Int) (q : Nat → Int), x.length = 512 → q 0 = 0 → q 1 = 0 →
    (∀ n, n < 508 → q (n + 2) = wrap 32 (x.getD n 0 + (c * q (n + 1) + 8192) / 16384 - q n)) →
    goertzelState x c = (q 509, q 508)) ∧
  ∀ (x : List Int) (c : Nat) (q : Nat → Int), x.length = 512 → (∀ v ∈ x, -32768 ≤ v ∧ v ≤ 32767) → c ∈ gcoef →
    q 0 = 0 → q 1 = 0 → (∀ n, n < 508 → q (n + 2) = x.getD n 0 + ((c : Int) * q (n + 1) + 8192) / 16384 - q n) →
    goertzelState x c = (q 509, q 508) ∧ ∀ n, n ≤ 509 → (q n).natAbs ≤ 626 * 2 ^ 15

/-- R302, R303, R307: the energy of any resonator state is not negative, and below 2^64 for 32-bit states; the energy
stored is the exact one, at most 2^53 for 16-bit samples; the eight energies depend on the first 508 samples alone; and a
frame of zeros has energy 0 in every resonator. -/
def Obligations.EnergiesOfTheWindow : Prop :=
  (∀ (q : Int × Int) (c : Nat), c ∈ gcoef →
    0 ≤ goertzelEnergy q c ∧
      (-2 ^ 31 ≤ q.1 → q.1 < 2 ^ 31 → -2 ^ 31 ≤ q.2 → q.2 < 2 ^ 31 → goertzelEnergy q c < 2 ^ 64)) ∧
    (∀ (x : List Int) (b : Nat), b < 8 →
      ((resonatorEnergy x b).toNat : Int) = goertzelEnergy (goertzelState x (gcoef.getD b 0)) (gcoef.getD b 0)) ∧
    (∀ (x : List Int) (b : Nat), x.length = 512 → (∀ v ∈ x, -32768 ≤ v ∧ v ≤ 32767) → b < 8 →
      (resonatorEnergy x b).toNat ≤ 2 ^ 53) ∧
    (∀ (x y : List Int) (b : Nat), x.length = 512 → y.length = 512 → x.take 508 = y.take 508 →
      resonatorEnergy x b = resonatorEnergy y b) ∧
    ∀ b, resonatorEnergy (List.replicate 512 0) b = 0#64

/-! ### The detectors -/

/-- R324: the bins within 30 Hz of each canonical frequency are these; none is exactly 30 Hz away. -/
def Obligations.MatchingBins : Prop :=
  (Config.freqs.map fun f => (List.range 257).filter fun i => withinTolerance i f) =
      [[43, 44, 45, 46], [48, 49, 50, 51], [53, 54, 55, 56], [59, 60, 61, 62], [76, 77, 78, 79], [84, 85, 86, 87],
        [93, 94, 95, 96], [103, 104, 105, 106]] ∧
    ∀ f ∈ Config.freqs, ∀ i ∈ List.range 257, ((125 * i : Nat) - (8 * f : Nat) : Int).natAbs ≠ 240

/-- R323, R324, R325: in `CANONICAL` mode a group's result is 0 without a candidate, F if every candidate matches F, and −1
if two candidates match different frequencies. In `BIN` mode candidates at bins 59 and 61 with bin 60 below threshold give
−1; and where the only candidates of a group are the first two, the first three, or all four of the bins b .. b + 3 that
match one frequency F, the held best moves to the next bin only if that is strictly greater: the first two give F, the
first three give F exactly if the second is greater than the first, all four give F exactly if the first three rise,
and −1 otherwise. That a tie keeps the earlier bin and that ambiguity is final are the spec's own choices (R323: "Three
points are the spec's own choices", D7 and D10 of 92_eei_decisions.md). -/
def Obligations.FdetClosedForm : Prop :=
  (∀ (t : Nat) (spec : Nat → Cx) (g : List Nat), g = Config.lowFreqs ∨ g = Config.highFreqs →
    let candidate := fun i f => i ≤ 256 ∧ matchFreq g i = some f ∧ t * t < mag2 (spec i)
    ((∀ i f, ¬ candidate i f) → fdetGroup .canonical t spec g = 0) ∧
    (∀ F, (∃ i, candidate i F) → (∀ i f, candidate i f → f = F) → fdetGroup .canonical t spec g = (F : Int)) ∧
    (∀ i f i' f', candidate i f → candidate i' f' → f ≠ f' → fdetGroup .canonical t spec g = -1)) ∧
  (∀ (t : Nat) (spec : Nat → Cx), t * t < mag2 (spec 59) → t * t < mag2 (spec 61) → mag2 (spec 60) ≤ t * t →
    fdetGroup .bin t spec Config.lowFreqs = -1) ∧
  ∀ (t : Nat) (spec : Nat → Cx) (g : List Nat) (F b : Nat),
    (g = Config.lowFreqs ∧ (F, b) ∈ [(697, 43), (770, 48), (852, 53), (941, 59)]) ∨
      (g = Config.highFreqs ∧ (F, b) ∈ [(1209, 76), (1336, 84), (1477, 93), (1633, 103)]) →
    (∀ i f, i ≤ 256 → matchFreq g i = some f → (i < b ∨ b + 3 < i) → mag2 (spec i) ≤ t * t) →
    t * t < mag2 (spec b) → t * t < mag2 (spec (b + 1)) →
    (mag2 (spec (b + 2)) ≤ t * t → mag2 (spec (b + 3)) ≤ t * t → fdetGroup .bin t spec g = (F : Int)) ∧
    (t * t < mag2 (spec (b + 2)) → mag2 (spec (b + 3)) ≤ t * t →
      fdetGroup .bin t spec g = if mag2 (spec b) < mag2 (spec (b + 1)) then (F : Int) else -1) ∧
    (t * t < mag2 (spec (b + 2)) → t * t < mag2 (spec (b + 3)) →
      fdetGroup .bin t spec g =
        if mag2 (spec b) < mag2 (spec (b + 1)) ∧ mag2 (spec (b + 1)) < mag2 (spec (b + 2)) then (F : Int) else -1)

/-- R330: with no bin above the threshold `FDET` gives silence, and with no energy above the threshold `GDET` does. -/
def Obligations.BelowThresholdIsSilence : Prop :=
  ∀ s : State,
    (s.job = .fdet → (∀ i, i ≤ 256 → mag2 (valueOf (s.specBin i)) ≤ s.jobFt.toNat * s.jobFt.toNat) →
      act .complete s = .next { s with tone := { low := 0#16, high := 0#16 }, job := .none }) ∧
    (s.job = .gdet → (∀ b, b < 8 → (s.energyAt b).toNat ≤ s.jobGt.toNat) →
      act .complete s = .next { s with tone := { low := 0#16, high := 0#16 }, job := .none })

/-- R327, R328: two energies of one group above the threshold make the pair (−1, −1), whichever group it is; otherwise
each field is the frequency of the one energy above the threshold in its group, or 0. -/
def Obligations.GdetGroups : Prop :=
  ∀ (gt : Nat) (es : List Nat), es.length = 8 →
    let low := (Config.lowFreqs.zip (es.take 4)).filter fun p => decide (gt < p.2)
    let high := (Config.highFreqs.zip (es.drop 4)).filter fun p => decide (gt < p.2)
    (2 ≤ low.length ∨ 2 ≤ high.length → gdetPair gt (Config.freqs.zip es) = (-1, -1)) ∧
    (low.length ≤ 1 ∧ high.length ≤ 1 →
      gdetPair gt (Config.freqs.zip es) =
        (Int.ofNat ((low.map Prod.fst).headD 0), Int.ofNat ((high.map Prod.fst).headD 0)))

/-! ### Acquisition -/

/-- R238-R240: a calibration tick reports the band and the straddle, finalises if a confirmation is pending and the tick
does not straddle, and last stores the converted reading; nothing else changes. The reading is cut to `RAW_BITS` bits by the
model's choice (log entry 14). -/
def Obligations.CalibrationTick : Prop :=
  ∀ (s : State) (raw : Half), s.calDone = false →
    let r := s.portReading raw
    let v := s.convert r
    let b := BitVec.ofNat 4 (Config.calBandFn r).val
    let strad :=
      decide ((0 < s.prevV.toInt ∧ v.toInt < 0 ∨ s.prevV.toInt < 0 ∧ 0 < v.toInt)
        ∧ s.calSpan.toNat < (v.toInt - s.prevV.toInt).natAbs)
    let fin := s.confirmPend && !strad
    act (.tick raw) s = .next
      { s with
        band := b, straddle := strad, calDone := fin, confirmPend := s.confirmPend && strad,
        midpoint := if fin then Config.calMaskFn r else s.midpoint, prevV := v,
        event := s.event ||| (if b = s.band then 0#9 else 0x080#9) ||| (if strad then 0x004#9 else 0#9)
          ||| (if fin then 0x100#9 else 0#9) }

/-- R242, R243: a frame tick stores the converted reading at the fill position of the active frame and nowhere else; the
512th hands the frame off, or, where the token is out, discards it and signals `OVERRUN`. The reading is cut to `RAW_BITS`
bits by the model's choice (log entry 14). -/
def Obligations.FrameTick : Prop :=
  ∀ (s : State) (raw : Half), s.calDone = true →
    ∃ t, act (.tick raw) s = .next t ∧
      t.sample s.activeIdx s.fill.toNat = s.convert (s.portReading raw) ∧
      (∀ a, a ≠ sampleAddr s.activeIdx s.fill.toNat → a ≠ sampleAddr s.activeIdx s.fill.toNat + 1 →
        t.readByte a = s.readByte a) ∧
      (s.fill.toNat < 511 → { t with mem := s.mem } = { s with fill := s.fill + 1 }) ∧
      (s.fill.toNat = 511 → s.rdyS = false →
        { t with mem := s.mem } =
          { s with
            fill := 0#9, readyIdx := s.activeIdx, activeIdx := s.activeIdx.other, rdyS := true, setPend := true }) ∧
      (s.fill.toNat = 511 → s.rdyS = true →
        { t with mem := s.mem } = { s with fill := 0#9, event := s.event ||| 0x008#9 })

/-- R237, R40: for any setting of the calibration registers, a reading converts to the quotient raw·MAX_AMP / RAW_FS
rounded down, less `HALF_AMP`, saturated to 16 bits. With the reset values it converts to itself less half of the full
scale, and no reading saturates; with `RAW_BITS = 16`, where the reset value of `HALF_AMP` reads as −32768 (R157), every
reading saturates: there the model follows R157, its own choice (log entry 11). -/
def Obligations.ConversionAtReset : Prop :=
  (∀ (s : State) (raw : Half), s.rawFs ≠ 0#16 →
    ∃ q : Nat, q * s.rawFs.toNat ≤ raw.toNat * s.maxAmp.toNat ∧
      raw.toNat * s.maxAmp.toNat < (q + 1) * s.rawFs.toNat ∧
      (s.convert raw).toInt = max (-32768) (min 32767 ((q : Int) - s.halfAmp.toInt))) ∧
  ∀ (p : Params) (e : Nat) (raw : Half), p.legal = true → raw.toNat < 2 ^ p.rawBits →
    (p.rawBits ≤ 15 →
      ((State.afterReset p e).convert raw).toInt = (raw.toNat : Int) - 2 ^ (p.rawBits - 1)) ∧
    (p.rawBits = 16 → ((State.afterReset p e).convert raw).toInt = 32767)

/-- R241, R244, R247, R362: the effects of the pin edge, of the two deliveries and of the automatic start. -/
def Obligations.InternalSteps : Prop :=
  ∀ s : State,
    (s.calDone = false → act .confirmEdge s = .next { s with confirmPend := true }) ∧
    (s.calDone = true → act .confirmEdge s = .next s) ∧
    act .deliverSet s = .next { s with rdyP := true, ridxP := s.readyIdx, setPend := false } ∧
    act .deliverClr s = .next { s with rdyS := false, clrPend := false } ∧
    act .autoStart s = .next
      { s with
        job := .process, jobAlg := s.alg, jobFt := s.fftThresh, jobGt := s.goeThresh, jobFidx := s.ridxP }

/-! ### Invariants and runs -/

/-- R37, R40, R47, R54, R245: every step keeps the invariants of the state; with them the canonical form of the RAMs and
the legal parameters, which are the model's own (log entries 4, 5). -/
def Obligations.InvariantKept : Prop :=
  ∀ s t : State, Inv s → step s = .next t → Inv t

/-- The invariants hold right after reset (R62). -/
def Obligations.InvariantAtReset : Prop := Inv State.reset

/-- R111, R245, R249: while a handed-off frame is with the consumer or on its way, no step writes it or changes its
designation, and no step writes the frame a job reads. -/
def Obligations.ReadyFrameStable : Prop :=
  ∀ (s t : State) (a : Action), Inv s → a ≠ .reset → enabled a s = true → act a s = .next t →
    (s.setPend = true ∨ s.rdyP = true →
      t.readyIdx = s.readyIdx ∧ ∀ n, n < 512 → t.sample s.readyIdx n = s.sample s.readyIdx n) ∧
    (s.rdyP = true → t.ridxP = s.ridxP ∧ ∀ n, n < 512 → t.sample s.ridxP n = s.sample s.ridxP n) ∧
    (s.job.needsFrame = true → ∀ n, n < 512 → t.sample s.jobFidx n = s.sample s.jobFidx n)

/-- R421: in every fair run every hand-off is delivered, every release reaches the sampler, every job completes, and in
automatic mode every delivered frame is released by a job, unless the block is reset first. Fairness is a predicate on
runs here, and the reset pulse a step (log entries 7, 12). -/
def Obligations.FairRunsMakeProgress : Prop :=
  ∀ (states : Nat → State) (actions : Nat → Action), FairRun states actions → ∀ n,
    ((states n).setPend = true → ∃ m, n ≤ m ∧ (actions m = .deliverSet ∨ actions m = .reset)) ∧
    ((states n).clrPend = true → ∃ m, n ≤ m ∧ (actions m = .deliverClr ∨ actions m = .reset)) ∧
    ((states n).job ≠ .none → ∃ m, n ≤ m ∧ (actions m = .complete ∨ actions m = .reset)) ∧
    ((states n).rdyP = true → (∀ m, n ≤ m → (states m).auto = true) →
      ∃ m, n ≤ m ∧ (actions m = .reset ∨
        (actions m = .complete ∧ ((states m).job = .process ∨ (states m).job = .release)
          ∧ (states (m + 1)).rdyP = false)))

/-- R34, R158, R235: once calibrated, no step but a reset changes `CAL_DONE`, the calibration registers, `MIDPOINT`,
`BAND`, `STRADDLE`, `PREV_V` or `CONFIRM_PEND`. -/
def Obligations.CalibrationIsFinal : Prop :=
  ∀ (s t : State) (a : Action), a ≠ .reset → act a s = .next t → s.calDone = true →
    t.calDone = true ∧ t.maxAmp = s.maxAmp ∧ t.halfAmp = s.halfAmp ∧ t.rawFs = s.rawFs ∧ t.calSpan = s.calSpan ∧
      t.midpoint = s.midpoint ∧ t.band = s.band ∧ t.straddle = s.straddle ∧ t.prevV = s.prevV ∧
      t.confirmPend = s.confirmPend

/-- R344, R456: the sequence is append-only but for `SEQ_RESET` and a reset: no other step shortens it or changes an
entry below `SEQ_LEN`, and it never exceeds its capacity. -/
def Obligations.SequenceIsAppendOnly : Prop :=
  ∀ (s t : State) (a : Action), Inv s → a ≠ .reset → a ≠ .busWrite 0x018#16 0xF#4 0x00000020#32 →
    act a s = .next t →
    s.seqLen.toNat ≤ t.seqLen.toNat ∧ t.seqLen.toNat ≤ s.seqLen.toNat + 1 ∧ t.seqLen.toNat ≤ s.seqCap ∧
      ∀ i, i < s.seqLen.toNat → t.seqChar i = s.seqChar i

/-- R403, R404: an event once set stays set until the host clears it or the block is reset; a write of `EVENT` clears
exactly the bits written as 1. The recorded answer `resp` is the model's own (log entry 8). -/
def Obligations.EventsAreSticky : Prop :=
  (∀ (s t : State) (a : Action) (b : Nat), a ≠ .reset → (∀ d, a ≠ .busWrite 0x010#16 0xF#4 d) →
    act a s = .next t → s.event.getLsbD b = true → t.event.getLsbD b = true) ∧
    ∀ (s : State) (d : Word),
      act (.busWrite 0x010#16 0xF#4 d) s = .next
        { s with event := s.event &&& ~~~(d.extractLsb' 0 9), resp := .write false }

/-! ### The bus -/

/-- R103, R141, R170, R407: exactly the misaligned, the sub-word and the unmapped accesses are refused: they answer
`err`, a read with data 0, and change no state; every other access answers without `err`. A sub-word access is one that
does not enable all four lanes, and the answer stands in `resp`: the model's choices (log entries 8, 9). -/
def Obligations.BusRefusals : Prop :=
  ∀ (s : State) (off : Half) (lanes : BitVec 4) (d : Word),
    let o := off.toNat
    let refused :=
      o % 4 ≠ 0 ∨ lanes ≠ 0xF#4 ∨ o = 0x04C ∨ o = 0x078 ∨ o = 0x07C ∨ (0x0E0 ≤ o ∧ o < 0x400)
        ∨ (0x800 ≤ o ∧ o < 0x1000) ∨ (0x1800 ≤ o ∧ o < 0x2000) ∨ (0x2800 ≤ o ∧ o < 0x4000)
        ∨ (0x5000 ≤ o ∧ o < 0x8000) ∨ 0x8800 ≤ o
    (refused →
      act (.busRead off lanes) s = .next { s with resp := .read 0#32 true } ∧
        act (.busWrite off lanes d) s = .next { s with resp := .write true }) ∧
    (¬ refused →
      (∃ t data, act (.busRead off lanes) s = .next t ∧ t.resp = .read data false) ∧
        ∃ t, act (.busWrite off lanes d) s = .next t ∧ t.resp = .write false)

/-- R104, R107, R360, R364: a read changes no register and no byte; unless the running job writes the word read, two reads
in a row answer the same; a word of `TONE`, `ENERGY` or `SPEC` that the running job writes answers a free value, whatever
that is. The counter of the free values and the recorded answer are the model's own (log entries 6, 8). -/
def Obligations.ReadsChangeNoRegister : Prop :=
  ∀ (s : State) (off : Half) (lanes : BitVec 4),
    let o := off.toNat
    let underWrite :=
      (o = 0x020 ∧ (s.job = .fdet ∨ s.job = .gdet ∨ s.job = .process)) ∨
        (0x080 ≤ o ∧ o < 0x0C0 ∧ (s.job = .goeRun ∨ s.job = .process ∧ s.jobAlg = .goertzel)) ∨
        (0x4000 ≤ o ∧ o < 0x5000 ∧ (s.job = .fftRun ∨ s.job = .process ∧ s.jobAlg = .fft))
    (∃ t, act (.busRead off lanes) s = .next t ∧ t = { s with resp := t.resp, draws := t.draws }) ∧
    (¬ underWrite →
      performAll [.busRead off lanes, .busRead off lanes] s = act (.busRead off lanes) s) ∧
    (underWrite → o % 4 = 0 → lanes = 0xF#4 → ∃ v, act (.busRead off lanes) s = .next
      { s with resp := .read v false, draws := s.draws + 1 })

/-- R141-R169: the word that a full-width read of each mapped offset answers, as long as the running job does not write
it (R360, R364); `STATUS` is the statement `StatusBits`. The recorded answer `resp` is the model's own (log entry 8). -/
def Obligations.RegisterMapReads : Prop :=
  ∀ s : State,
    (∀ p ∈
      [ (0x000#16, 0x44544D46#32),
        (0x004#16,
          0#11 ++ BitVec.ofNat 5 s.par.rawBits ++ 0#3 ++ BitVec.ofBool (s.par.fdetRef = .bin) ++ 9#4
            ++ BitVec.ofNat 8 (s.par.gSequenceLength - 2)),
        (0x008#16, 0#30 ++ BitVec.ofBool (s.alg = .goertzel) ++ BitVec.ofBool s.auto),
        (0x010#16, 0#23 ++ s.event),
        (0x014#16, 0#23 ++ s.irqEn),
        (0x018#16, 0#32),
        (0x01C#16,
          0#16 ++ s.resultSym ++ 0#5 ++
            (match s.resultCode with
              | .none => 0#3
              | .noise => 1#3
              | .multitone => 2#3
              | .hold => 3#3
              | .accepted => 4#3
              | .overflow => 5#3)),
        (0x024#16, 0#24 ++ s.lastChar),
        (0x028#16, 0#24 ++ s.seqLen),
        (0x02C#16, s.fftThresh),
        (0x030#16, s.goeThresh.extractLsb' 0 32),
        (0x034#16, s.goeThresh.extractLsb' 32 32),
        (0x038#16, 0#16 ++ s.maxAmp),
        (0x03C#16, s.halfAmp.signExtend 32),
        (0x040#16, 0#16 ++ s.rawFs),
        (0x044#16, 0#16 ++ s.calSpan),
        (0x048#16, 0#16 ++ s.midpoint),
        (0x050#16, s.cuA.re), (0x054#16, s.cuA.im), (0x058#16, s.cuB.re), (0x05C#16, s.cuB.im),
        (0x060#16, s.cuR.re), (0x064#16, s.cuR.im), (0x068#16, s.cuS.re), (0x06C#16, s.cuS.im),
        (0x070#16, s.cuM.extractLsb' 0 32), (0x074#16, s.cuM.extractLsb' 32 32),
        (0x0C0#16, 0x002C6D82#32), (0x0C4#16, 0x00316934#32), (0x0C8#16, 0x0036647F#32), (0x0CC#16, 0x003C5E57#32),
        (0x0D0#16, 0x004D4A35#32), (0x0D4#16, 0x00553F8B#32), (0x0D8#16, 0x005E32CE#32), (0x0DC#16, 0x006823EC#32) ],
      Answers s p.1 p.2) ∧
    (s.job ≠ .fdet → s.job ≠ .gdet → s.job ≠ .process → Answers s 0x020#16 (s.tone.high ++ s.tone.low)) ∧
    (s.job ≠ .goeRun → ¬ (s.job = .process ∧ s.jobAlg = .goertzel) → ∀ b, b < 8 →
      Answers s (BitVec.ofNat 16 (0x080 + 8 * b)) ((s.energyAt b).extractLsb' 0 32) ∧
        Answers s (BitVec.ofNat 16 (0x084 + 8 * b)) ((s.energyAt b).extractLsb' 32 32)) ∧
    (∀ i, i < 256 → Answers s (BitVec.ofNat 16 (0x400 + 4 * i))
      (if i < s.seqLen.toNat then 0#24 ++ s.seqChar i else 0#32)) ∧
    (∀ n, n < 512 →
      Answers s (BitVec.ofNat 16 (0x1000 + 4 * n)) ((s.sample .a n).signExtend 32) ∧
        Answers s (BitVec.ofNat 16 (0x2000 + 4 * n)) ((s.sample .b n).signExtend 32)) ∧
    (s.job ≠ .fftRun → ¬ (s.job = .process ∧ s.jobAlg = .fft) → ∀ k, k < 512 →
      Answers s (BitVec.ofNat 16 (0x4000 + 8 * k)) (s.specBin k).re ∧
        Answers s (BitVec.ofNat 16 (0x4004 + 8 * k)) (s.specBin k).im) ∧
    ∀ k, k < 512 → Answers s (BitVec.ofNat 16 (0x8000 + 4 * k))
      (BitVec.ofInt 16 (tw k).im ++ BitVec.ofInt 16 (tw k).re)

/-- R141, R152, R163, R165, R364: the storage of the jobs takes a host write only in manual mode and idle, where the
written word reads back and every other word keeps its value; otherwise the write is ignored without an error. `resp` is
the model's own (log entry 8). -/
def Obligations.JobStorageWrites : Prop :=
  ∀ (s : State) (d : Word) (k b : Nat), k < 1024 → b < 8 →
    let spec : Action := .busWrite (BitVec.ofNat 16 (0x4000 + 4 * k)) 0xF#4 d
    let lo : Action := .busWrite (BitVec.ofNat 16 (0x080 + 8 * b)) 0xF#4 d
    let hi : Action := .busWrite (BitVec.ofNat 16 (0x084 + 8 * b)) 0xF#4 d
    let tone : Action := .busWrite 0x020#16 0xF#4 d
    (s.auto = true ∨ s.job ≠ .none →
      ∀ a ∈ [spec, lo, hi, tone], act a s = .next { s with resp := .write false }) ∧
    (s.auto = false → s.job = .none →
      act tone s = .next
          { s with
            tone := { low := d.extractLsb' 0 16, high := d.extractLsb' 16 16 }, resp := .write false } ∧
        (∃ t, act lo s = .next t ∧ t = { s with energy := t.energy, resp := .write false } ∧
          t.energyAt b = (s.energyAt b).extractLsb' 32 32 ++ d ∧
          ∀ c, c ≠ b → t.energyAt c = s.energyAt c) ∧
        (∃ t, act hi s = .next t ∧ t = { s with energy := t.energy, resp := .write false } ∧
          t.energyAt b = d ++ (s.energyAt b).extractLsb' 0 32 ∧
          ∀ c, c ≠ b → t.energyAt c = s.energyAt c) ∧
        ∃ t, act spec s = .next t ∧ { t with mem := s.mem } = { s with resp := .write false } ∧
          t.readWord (0x4000 + 4 * k) = d ∧
          ∀ a, (a < 0x4000 + 4 * k ∨ 0x4000 + 4 * k + 4 ≤ a) → t.readByte a = s.readByte a)

/-- R40, R105, R141, R145, R148, R155-R158, R160: a write of a read-only word changes nothing; writes of the control, threshold, calibration and operand registers store what is
written, with reserved bits ignored; the calibration registers only while uncalibrated, and `RAW_FS` never 0. That a
write of `RAW_FS` is judged by its low 16 bits is the model's choice (log entry 10); `resp` is its own (log entry 8). -/
def Obligations.ControlWrites : Prop :=
  ∀ (s : State) (d : Word),
    act (.busWrite 0x008#16 0xF#4 d) s = .next
        { s with
          auto := d.getLsbD 0, alg := if d.getLsbD 1 then .goertzel else .fft, resp := .write false } ∧
      act (.busWrite 0x014#16 0xF#4 d) s = .next { s with irqEn := d.extractLsb' 0 9, resp := .write false } ∧
      act (.busWrite 0x02C#16 0xF#4 d) s = .next { s with fftThresh := d, resp := .write false } ∧
      act (.busWrite 0x030#16 0xF#4 d) s = .next
        { s with goeThresh := s.goeThresh.extractLsb' 32 32 ++ d, resp := .write false } ∧
      act (.busWrite 0x034#16 0xF#4 d) s = .next
        { s with goeThresh := d ++ s.goeThresh.extractLsb' 0 32, resp := .write false } ∧
      (s.calDone = false →
        act (.busWrite 0x038#16 0xF#4 d) s = .next { s with maxAmp := d.extractLsb' 0 16, resp := .write false } ∧
        act (.busWrite 0x03C#16 0xF#4 d) s = .next { s with halfAmp := d.extractLsb' 0 16, resp := .write false } ∧
        (d.extractLsb' 0 16 ≠ 0#16 →
          act (.busWrite 0x040#16 0xF#4 d) s = .next { s with rawFs := d.extractLsb' 0 16, resp := .write false }) ∧
        act (.busWrite 0x044#16 0xF#4 d) s = .next { s with calSpan := d.extractLsb' 0 16, resp := .write false }) ∧
      (d.extractLsb' 0 16 = 0#16 →
        act (.busWrite 0x040#16 0xF#4 d) s = .next { s with resp := .write false }) ∧
      (s.calDone = true → ∀ off ∈ [0x038#16, 0x03C#16, 0x040#16, 0x044#16],
        act (.busWrite off 0xF#4 d) s = .next { s with resp := .write false }) ∧
      act (.busWrite 0x050#16 0xF#4 d) s = .next { s with cuA := ⟨d, s.cuA.im⟩, resp := .write false } ∧
      act (.busWrite 0x054#16 0xF#4 d) s = .next { s with cuA := ⟨s.cuA.re, d⟩, resp := .write false } ∧
      act (.busWrite 0x058#16 0xF#4 d) s = .next { s with cuB := ⟨d, s.cuB.im⟩, resp := .write false } ∧
      act (.busWrite 0x05C#16 0xF#4 d) s = .next { s with cuB := ⟨s.cuB.re, d⟩, resp := .write false } ∧
      ∀ off : Half,
        let o := off.toNat
        o % 4 = 0 →
        o ∈ [0x000, 0x004, 0x00C, 0x01C, 0x024, 0x028, 0x048] ∨ (0x060 ≤ o ∧ o < 0x078) ∨ (0x0C0 ≤ o ∧ o < 0x0E0)
          ∨ (0x400 ≤ o ∧ o < 0x800) ∨ (0x1000 ≤ o ∧ o < 0x1800) ∨ (0x2000 ≤ o ∧ o < 0x2800)
          ∨ (0x8000 ≤ o ∧ o < 0x8800) →
        act (.busWrite off 0xF#4 d) s = .next { s with resp := .write false }

/-- R146, R405: a read of `STATUS` answers these bits, and `irq` is the OR over the enabled events. The recorded answer
`resp` is the model's own (log entry 8). -/
def Obligations.StatusBits : Prop :=
  ∀ s : State, ∃ w, Answers s 0x00C#16 w ∧
    w.getLsbD 0 = s.calDone ∧ w.getLsbD 1 = s.rdyP ∧ w.getLsbD 2 = decide (s.ridxP = .b) ∧
      w.getLsbD 3 = decide (s.job ≠ .none) ∧ w.getLsbD 4 = s.confirmPend ∧ w.getLsbD 5 = s.straddle ∧
      w.extractLsb' 6 2 = 0#2 ∧ w.extractLsb' 8 4 = s.band ∧
      w.extractLsb' 12 3 =
        (match s.job with
          | .none => 0#3
          | .fftRun => 1#3
          | .goeRun => 2#3
          | .fdet => 3#3
          | .gdet => 4#3
          | .decode => 5#3
          | .process => 6#3
          | .release => 7#3) ∧
      w.getLsbD 15 = false ∧ w.getLsbD 16 = s.irq ∧ w.extractLsb' 17 15 = 0#15 ∧
      (s.irq = true ↔ ∃ b, b < 9 ∧ s.event.getLsbD b = true ∧ s.irqEn.getLsbD b = true)

/-! ### Reset, constants and the pipeline -/

/-- R62, R444: what a read of every mapped register answers right after reset, for every legal choice of the parameters;
the model's initial state is such a state. The recorded answer `resp` is the model's own (log entry 8). -/
def Obligations.ResetReads : Prop :=
  (∀ (p : Params) (e : Nat), p.legal = true →
    (∀ q ∈
      [ (0x000#16, 0x44544D46#32),
        (0x004#16, BitVec.ofNat 32
          (p.seqCap ||| 0x900 ||| (if p.fdetRef = .bin then 1 else 0) <<< 12 ||| p.rawBits <<< 16)),
        (0x024#16, 0x4E#32),
        (0x02C#16, p.fftThreshRst),
        (0x030#16, p.goeThreshRst.extractLsb' 0 32),
        (0x034#16, p.goeThreshRst.extractLsb' 32 32),
        (0x038#16, BitVec.ofNat 32 (2 ^ p.rawBits - 1)),
        (0x03C#16, (BitVec.ofNat 16 (2 ^ (p.rawBits - 1))).signExtend 32),
        (0x040#16, BitVec.ofNat 32 (2 ^ p.rawBits - 1)),
        (0x044#16, p.calSpanRst.setWidth 32) ], Answers (State.afterReset p e) q.1 q.2) ∧
    (∀ off ∈
      [ 0x008#16, 0x00C#16, 0x010#16, 0x014#16, 0x018#16, 0x01C#16, 0x020#16, 0x028#16, 0x048#16, 0x050#16, 0x054#16,
        0x058#16, 0x05C#16, 0x060#16, 0x064#16, 0x068#16, 0x06C#16, 0x070#16, 0x074#16 ],
      Answers (State.afterReset p e) off 0#32) ∧
    (∀ n, n < 16 → Answers (State.afterReset p e) (BitVec.ofNat 16 (0x080 + 4 * n)) 0#32) ∧
    ∀ i, i < 256 → Answers (State.afterReset p e) (BitVec.ofNat 16 (0x400 + 4 * i)) 0#32) ∧
    ∃ p, p.legal = true ∧ State.reset = State.afterReset p 0

/-- R440-R442: a reset pulse, from any state, leaves what `afterReset` gives: it discards the running job, every pending
transfer, the token, every event and a pending confirmation, and calibration starts again. That a pulse of `rst_n` is a
step of the machine, which keeps the schedule and counts the resets, is the model's choice (log entries 5, 7). -/
def Obligations.ResetPulse : Prop :=
  ∀ s : State, ∃ t, act .reset s = .next t ∧
    t = { State.afterReset s.par (s.epoch + 1) with draws := s.draws, agenda := s.agenda } ∧
    t.job = .none ∧ t.setPend = false ∧ t.clrPend = false ∧ t.rdyS = false ∧ t.rdyP = false ∧ t.event = 0#9 ∧
    t.confirmPend = false ∧ t.calDone = false ∧ t.mem = []

/-- R280, R390, R391: the known twiddle factors, the symmetries of the table, the range of its components, and the
Goertzel ROM's words. -/
def Obligations.RomTables : Prop :=
  tw 0 = ⟨16384, 0⟩ ∧ tw 64 = ⟨11585, -11585⟩ ∧ tw 128 = ⟨0, -16384⟩ ∧ tw 256 = ⟨-16384, 0⟩ ∧ tw 384 = ⟨0, 16384⟩ ∧
    (∀ k, k < 256 → tw (k + 256) = ⟨-(tw k).re, -(tw k).im⟩) ∧
    (∀ k, 1 ≤ k → k < 256 → tw (512 - k) = ⟨(tw k).re, -(tw k).im⟩) ∧
    (∀ k, k < 512 → (tw k).re.natAbs ≤ 16384 ∧ (tw k).im.natAbs ≤ 16384) ∧
    (List.range 8).map gRomWord =
      [0x002C6D82#32, 0x00316934#32, 0x0036647F#32, 0x003C5E57#32, 0x004D4A35#32, 0x00553F8B#32, 0x005E32CE#32,
        0x006823EC#32]

/-- R371: on a ready frame in manual mode, the engine's command, the detector, `DECODE` and `RELEASE`, each followed by
its wait for idle, reach the state that `PROCESS` reaches, but for the bus's last answer, whatever the number of polls
before and after each commit. The last answer `resp` is the model's own (log entry 8). -/
def Obligations.ManualEqualsProcess : Prop :=
  ∀ (s : State) (n1 n2 n3 n4 n5 m1 m2 m3 m4 m5 : Nat), s.auto = false → s.job = .none → s.rdyP = true →
    let cmd := fun (i : Instr) (n m : Nat) =>
      cmdWriteAction (encode i) :: (statusPolls n ++ .complete :: statusPolls m)
    let engine := match s.alg with
      | .fft => Instr.fftRun
      | .goertzel => .goeRun
    let detector := match s.alg with
      | .fft => Instr.fdet
      | .goertzel => .gdet
    ∃ t u,
      performAll (cmd engine n1 m1 ++ cmd detector n2 m2 ++ cmd .decode n3 m3 ++ cmd .release n4 m4) s = .next t ∧
        performAll (cmd .process n5 m5) s = .next u ∧ { t with resp := .idle } = { u with resp := .idle }
end

