-- ==== Sys2Proof/Laws/Bus.lean ====
section
/-! SUPPORT. What a bus access can do, once for each kind (20_memory.md R103-R105). -/

namespace Sys2Proof.Machine

/-- A read of a mapped word that the running job does not write answers its committed value (R104, R364). -/
theorem answers_of {s : State} {off : Half} {l : Loc} (hl : accessLoc off 0xF#4 = some l) (hj : jobWrites s l = false) :
    Answers s off (readVal s l) := by
  simp [Answers, act, State.busRead, hl, hj]

/-- All that a read can do: answer a word, and draw at most one free value. -/
theorem busRead_cases (s : State) (off : Half) (lanes : BitVec 4) :
    s.busRead off lanes = { s with resp := .read 0 true } ∨
      (∃ l, accessLoc off lanes = some l ∧
        s.busRead off lanes = { s with resp := .read (Config.busyRead s.draws) false, draws := s.draws + 1 }) ∨
      ∃ l, accessLoc off lanes = some l ∧ s.busRead off lanes = { s with resp := .read (readVal s l) false } := by
  unfold State.busRead
  cases h : accessLoc off lanes with
  | none => exact .inl rfl
  | some l =>
    cases hj : jobWrites s l
    · exact .inr (.inr ⟨l, rfl, by simp [hj]⟩)
    · exact .inr (.inl ⟨l, rfl, by simp [hj]⟩)

/-- A write of a mapped word other than `CMD` is that word's effect, with the answer recorded (R105). -/
theorem busWrite_of {s : State} {off : Half} {l : Loc} (d : Word) (hl : accessLoc off 0xF#4 = some l) (hc : l ≠ .cmd) :
    busWrite off 0xF#4 d s = .next (writeReg { s with resp := .write false } l d) := by
  simp [busWrite, hl]

end Sys2Proof.Machine
end

