-- ==== Sys2Proof/Laws/State.lean ====
section
/-! SUPPORT. One lemma per field per named update of the state, each true by definition, so that no proof unfolds a
record update. -/

namespace Sys2Proof.Machine

/-! ### `State.signal` -/

@[simp] theorem State.signal_calDone (s : State) (e : Event) : (s.signal e).calDone = s.calDone := rfl
@[simp] theorem State.signal_confirmPend (s : State) (e : Event) : (s.signal e).confirmPend = s.confirmPend := rfl
@[simp] theorem State.signal_prevV (s : State) (e : Event) : (s.signal e).prevV = s.prevV := rfl
@[simp] theorem State.signal_band (s : State) (e : Event) : (s.signal e).band = s.band := rfl
@[simp] theorem State.signal_straddle (s : State) (e : Event) : (s.signal e).straddle = s.straddle := rfl
@[simp] theorem State.signal_midpoint (s : State) (e : Event) : (s.signal e).midpoint = s.midpoint := rfl
@[simp] theorem State.signal_maxAmp (s : State) (e : Event) : (s.signal e).maxAmp = s.maxAmp := rfl
@[simp] theorem State.signal_halfAmp (s : State) (e : Event) : (s.signal e).halfAmp = s.halfAmp := rfl
@[simp] theorem State.signal_rawFs (s : State) (e : Event) : (s.signal e).rawFs = s.rawFs := rfl
@[simp] theorem State.signal_calSpan (s : State) (e : Event) : (s.signal e).calSpan = s.calSpan := rfl
@[simp] theorem State.signal_activeIdx (s : State) (e : Event) : (s.signal e).activeIdx = s.activeIdx := rfl
@[simp] theorem State.signal_fill (s : State) (e : Event) : (s.signal e).fill = s.fill := rfl
@[simp] theorem State.signal_readyIdx (s : State) (e : Event) : (s.signal e).readyIdx = s.readyIdx := rfl
@[simp] theorem State.signal_rdyS (s : State) (e : Event) : (s.signal e).rdyS = s.rdyS := rfl
@[simp] theorem State.signal_setPend (s : State) (e : Event) : (s.signal e).setPend = s.setPend := rfl
@[simp] theorem State.signal_clrPend (s : State) (e : Event) : (s.signal e).clrPend = s.clrPend := rfl
@[simp] theorem State.signal_rdyP (s : State) (e : Event) : (s.signal e).rdyP = s.rdyP := rfl
@[simp] theorem State.signal_ridxP (s : State) (e : Event) : (s.signal e).ridxP = s.ridxP := rfl
@[simp] theorem State.signal_auto (s : State) (e : Event) : (s.signal e).auto = s.auto := rfl
@[simp] theorem State.signal_alg (s : State) (e : Event) : (s.signal e).alg = s.alg := rfl
@[simp] theorem State.signal_job (s : State) (e : Event) : (s.signal e).job = s.job := rfl
@[simp] theorem State.signal_jobAlg (s : State) (e : Event) : (s.signal e).jobAlg = s.jobAlg := rfl
@[simp] theorem State.signal_jobFt (s : State) (e : Event) : (s.signal e).jobFt = s.jobFt := rfl
@[simp] theorem State.signal_jobGt (s : State) (e : Event) : (s.signal e).jobGt = s.jobGt := rfl
@[simp] theorem State.signal_jobFidx (s : State) (e : Event) : (s.signal e).jobFidx = s.jobFidx := rfl
@[simp] theorem State.signal_energy (s : State) (e : Event) : (s.signal e).energy = s.energy := rfl
@[simp] theorem State.signal_tone (s : State) (e : Event) : (s.signal e).tone = s.tone := rfl
@[simp] theorem State.signal_lastChar (s : State) (e : Event) : (s.signal e).lastChar = s.lastChar := rfl
@[simp] theorem State.signal_seqLen (s : State) (e : Event) : (s.signal e).seqLen = s.seqLen := rfl
@[simp] theorem State.signal_resultCode (s : State) (e : Event) : (s.signal e).resultCode = s.resultCode := rfl
@[simp] theorem State.signal_resultSym (s : State) (e : Event) : (s.signal e).resultSym = s.resultSym := rfl
@[simp] theorem State.signal_fftThresh (s : State) (e : Event) : (s.signal e).fftThresh = s.fftThresh := rfl
@[simp] theorem State.signal_goeThresh (s : State) (e : Event) : (s.signal e).goeThresh = s.goeThresh := rfl
@[simp] theorem State.signal_event (s : State) (e : Event) : (s.signal e).event = s.event ||| e.mask := rfl
@[simp] theorem State.signal_irqEn (s : State) (e : Event) : (s.signal e).irqEn = s.irqEn := rfl
@[simp] theorem State.signal_cuA (s : State) (e : Event) : (s.signal e).cuA = s.cuA := rfl
@[simp] theorem State.signal_cuB (s : State) (e : Event) : (s.signal e).cuB = s.cuB := rfl
@[simp] theorem State.signal_cuR (s : State) (e : Event) : (s.signal e).cuR = s.cuR := rfl
@[simp] theorem State.signal_cuS (s : State) (e : Event) : (s.signal e).cuS = s.cuS := rfl
@[simp] theorem State.signal_cuM (s : State) (e : Event) : (s.signal e).cuM = s.cuM := rfl
@[simp] theorem State.signal_mem (s : State) (e : Event) : (s.signal e).mem = s.mem := rfl
@[simp] theorem State.signal_par (s : State) (e : Event) : (s.signal e).par = s.par := rfl
@[simp] theorem State.signal_epoch (s : State) (e : Event) : (s.signal e).epoch = s.epoch := rfl
@[simp] theorem State.signal_draws (s : State) (e : Event) : (s.signal e).draws = s.draws := rfl
@[simp] theorem State.signal_agenda (s : State) (e : Event) : (s.signal e).agenda = s.agenda := rfl
@[simp] theorem State.signal_resp (s : State) (e : Event) : (s.signal e).resp = s.resp := rfl

/-! ### `State.startJob` -/

@[simp] theorem State.startJob_calDone (s : State) (j : Job) : (s.startJob j).calDone = s.calDone := rfl
@[simp] theorem State.startJob_confirmPend (s : State) (j : Job) : (s.startJob j).confirmPend = s.confirmPend := rfl
@[simp] theorem State.startJob_prevV (s : State) (j : Job) : (s.startJob j).prevV = s.prevV := rfl
@[simp] theorem State.startJob_band (s : State) (j : Job) : (s.startJob j).band = s.band := rfl
@[simp] theorem State.startJob_straddle (s : State) (j : Job) : (s.startJob j).straddle = s.straddle := rfl
@[simp] theorem State.startJob_midpoint (s : State) (j : Job) : (s.startJob j).midpoint = s.midpoint := rfl
@[simp] theorem State.startJob_maxAmp (s : State) (j : Job) : (s.startJob j).maxAmp = s.maxAmp := rfl
@[simp] theorem State.startJob_halfAmp (s : State) (j : Job) : (s.startJob j).halfAmp = s.halfAmp := rfl
@[simp] theorem State.startJob_rawFs (s : State) (j : Job) : (s.startJob j).rawFs = s.rawFs := rfl
@[simp] theorem State.startJob_calSpan (s : State) (j : Job) : (s.startJob j).calSpan = s.calSpan := rfl
@[simp] theorem State.startJob_activeIdx (s : State) (j : Job) : (s.startJob j).activeIdx = s.activeIdx := rfl
@[simp] theorem State.startJob_fill (s : State) (j : Job) : (s.startJob j).fill = s.fill := rfl
@[simp] theorem State.startJob_readyIdx (s : State) (j : Job) : (s.startJob j).readyIdx = s.readyIdx := rfl
@[simp] theorem State.startJob_rdyS (s : State) (j : Job) : (s.startJob j).rdyS = s.rdyS := rfl
@[simp] theorem State.startJob_setPend (s : State) (j : Job) : (s.startJob j).setPend = s.setPend := rfl
@[simp] theorem State.startJob_clrPend (s : State) (j : Job) : (s.startJob j).clrPend = s.clrPend := rfl
@[simp] theorem State.startJob_rdyP (s : State) (j : Job) : (s.startJob j).rdyP = s.rdyP := rfl
@[simp] theorem State.startJob_ridxP (s : State) (j : Job) : (s.startJob j).ridxP = s.ridxP := rfl
@[simp] theorem State.startJob_auto (s : State) (j : Job) : (s.startJob j).auto = s.auto := rfl
@[simp] theorem State.startJob_alg (s : State) (j : Job) : (s.startJob j).alg = s.alg := rfl
@[simp] theorem State.startJob_job (s : State) (j : Job) : (s.startJob j).job = j := rfl
@[simp] theorem State.startJob_jobAlg (s : State) (j : Job) : (s.startJob j).jobAlg = s.alg := rfl
@[simp] theorem State.startJob_jobFt (s : State) (j : Job) : (s.startJob j).jobFt = s.fftThresh := rfl
@[simp] theorem State.startJob_jobGt (s : State) (j : Job) : (s.startJob j).jobGt = s.goeThresh := rfl
@[simp] theorem State.startJob_jobFidx (s : State) (j : Job) : (s.startJob j).jobFidx = s.ridxP := rfl
@[simp] theorem State.startJob_energy (s : State) (j : Job) : (s.startJob j).energy = s.energy := rfl
@[simp] theorem State.startJob_tone (s : State) (j : Job) : (s.startJob j).tone = s.tone := rfl
@[simp] theorem State.startJob_lastChar (s : State) (j : Job) : (s.startJob j).lastChar = s.lastChar := rfl
@[simp] theorem State.startJob_seqLen (s : State) (j : Job) : (s.startJob j).seqLen = s.seqLen := rfl
@[simp] theorem State.startJob_resultCode (s : State) (j : Job) : (s.startJob j).resultCode = s.resultCode := rfl
@[simp] theorem State.startJob_resultSym (s : State) (j : Job) : (s.startJob j).resultSym = s.resultSym := rfl
@[simp] theorem State.startJob_fftThresh (s : State) (j : Job) : (s.startJob j).fftThresh = s.fftThresh := rfl
@[simp] theorem State.startJob_goeThresh (s : State) (j : Job) : (s.startJob j).goeThresh = s.goeThresh := rfl
@[simp] theorem State.startJob_event (s : State) (j : Job) : (s.startJob j).event = s.event := rfl
@[simp] theorem State.startJob_irqEn (s : State) (j : Job) : (s.startJob j).irqEn = s.irqEn := rfl
@[simp] theorem State.startJob_cuA (s : State) (j : Job) : (s.startJob j).cuA = s.cuA := rfl
@[simp] theorem State.startJob_cuB (s : State) (j : Job) : (s.startJob j).cuB = s.cuB := rfl
@[simp] theorem State.startJob_cuR (s : State) (j : Job) : (s.startJob j).cuR = s.cuR := rfl
@[simp] theorem State.startJob_cuS (s : State) (j : Job) : (s.startJob j).cuS = s.cuS := rfl
@[simp] theorem State.startJob_cuM (s : State) (j : Job) : (s.startJob j).cuM = s.cuM := rfl
@[simp] theorem State.startJob_mem (s : State) (j : Job) : (s.startJob j).mem = s.mem := rfl
@[simp] theorem State.startJob_par (s : State) (j : Job) : (s.startJob j).par = s.par := rfl
@[simp] theorem State.startJob_epoch (s : State) (j : Job) : (s.startJob j).epoch = s.epoch := rfl
@[simp] theorem State.startJob_draws (s : State) (j : Job) : (s.startJob j).draws = s.draws := rfl
@[simp] theorem State.startJob_agenda (s : State) (j : Job) : (s.startJob j).agenda = s.agenda := rfl
@[simp] theorem State.startJob_resp (s : State) (j : Job) : (s.startJob j).resp = s.resp := rfl

/-! ### `State.endJob` -/

@[simp] theorem State.endJob_calDone (s : State) : s.endJob.calDone = s.calDone := rfl
@[simp] theorem State.endJob_confirmPend (s : State) : s.endJob.confirmPend = s.confirmPend := rfl
@[simp] theorem State.endJob_prevV (s : State) : s.endJob.prevV = s.prevV := rfl
@[simp] theorem State.endJob_band (s : State) : s.endJob.band = s.band := rfl
@[simp] theorem State.endJob_straddle (s : State) : s.endJob.straddle = s.straddle := rfl
@[simp] theorem State.endJob_midpoint (s : State) : s.endJob.midpoint = s.midpoint := rfl
@[simp] theorem State.endJob_maxAmp (s : State) : s.endJob.maxAmp = s.maxAmp := rfl
@[simp] theorem State.endJob_halfAmp (s : State) : s.endJob.halfAmp = s.halfAmp := rfl
@[simp] theorem State.endJob_rawFs (s : State) : s.endJob.rawFs = s.rawFs := rfl
@[simp] theorem State.endJob_calSpan (s : State) : s.endJob.calSpan = s.calSpan := rfl
@[simp] theorem State.endJob_activeIdx (s : State) : s.endJob.activeIdx = s.activeIdx := rfl
@[simp] theorem State.endJob_fill (s : State) : s.endJob.fill = s.fill := rfl
@[simp] theorem State.endJob_readyIdx (s : State) : s.endJob.readyIdx = s.readyIdx := rfl
@[simp] theorem State.endJob_rdyS (s : State) : s.endJob.rdyS = s.rdyS := rfl
@[simp] theorem State.endJob_setPend (s : State) : s.endJob.setPend = s.setPend := rfl
@[simp] theorem State.endJob_clrPend (s : State) : s.endJob.clrPend = s.clrPend := rfl
@[simp] theorem State.endJob_rdyP (s : State) : s.endJob.rdyP = s.rdyP := rfl
@[simp] theorem State.endJob_ridxP (s : State) : s.endJob.ridxP = s.ridxP := rfl
@[simp] theorem State.endJob_auto (s : State) : s.endJob.auto = s.auto := rfl
@[simp] theorem State.endJob_alg (s : State) : s.endJob.alg = s.alg := rfl
@[simp] theorem State.endJob_job (s : State) : s.endJob.job = .none := rfl
@[simp] theorem State.endJob_jobAlg (s : State) : s.endJob.jobAlg = s.jobAlg := rfl
@[simp] theorem State.endJob_jobFt (s : State) : s.endJob.jobFt = s.jobFt := rfl
@[simp] theorem State.endJob_jobGt (s : State) : s.endJob.jobGt = s.jobGt := rfl
@[simp] theorem State.endJob_jobFidx (s : State) : s.endJob.jobFidx = s.jobFidx := rfl
@[simp] theorem State.endJob_energy (s : State) : s.endJob.energy = s.energy := rfl
@[simp] theorem State.endJob_tone (s : State) : s.endJob.tone = s.tone := rfl
@[simp] theorem State.endJob_lastChar (s : State) : s.endJob.lastChar = s.lastChar := rfl
@[simp] theorem State.endJob_seqLen (s : State) : s.endJob.seqLen = s.seqLen := rfl
@[simp] theorem State.endJob_resultCode (s : State) : s.endJob.resultCode = s.resultCode := rfl
@[simp] theorem State.endJob_resultSym (s : State) : s.endJob.resultSym = s.resultSym := rfl
@[simp] theorem State.endJob_fftThresh (s : State) : s.endJob.fftThresh = s.fftThresh := rfl
@[simp] theorem State.endJob_goeThresh (s : State) : s.endJob.goeThresh = s.goeThresh := rfl
@[simp] theorem State.endJob_event (s : State) : s.endJob.event = s.event := rfl
@[simp] theorem State.endJob_irqEn (s : State) : s.endJob.irqEn = s.irqEn := rfl
@[simp] theorem State.endJob_cuA (s : State) : s.endJob.cuA = s.cuA := rfl
@[simp] theorem State.endJob_cuB (s : State) : s.endJob.cuB = s.cuB := rfl
@[simp] theorem State.endJob_cuR (s : State) : s.endJob.cuR = s.cuR := rfl
@[simp] theorem State.endJob_cuS (s : State) : s.endJob.cuS = s.cuS := rfl
@[simp] theorem State.endJob_cuM (s : State) : s.endJob.cuM = s.cuM := rfl
@[simp] theorem State.endJob_mem (s : State) : s.endJob.mem = s.mem := rfl
@[simp] theorem State.endJob_par (s : State) : s.endJob.par = s.par := rfl
@[simp] theorem State.endJob_epoch (s : State) : s.endJob.epoch = s.epoch := rfl
@[simp] theorem State.endJob_draws (s : State) : s.endJob.draws = s.draws := rfl
@[simp] theorem State.endJob_agenda (s : State) : s.endJob.agenda = s.agenda := rfl
@[simp] theorem State.endJob_resp (s : State) : s.endJob.resp = s.resp := rfl

/-! ### `State.writeBytes` -/

@[simp] theorem State.writeBytes_calDone (s : State) (a : Nat) (bs : List Byte) : (s.writeBytes a bs).calDone = s.calDone := rfl
@[simp] theorem State.writeBytes_confirmPend (s : State) (a : Nat) (bs : List Byte) : (s.writeBytes a bs).confirmPend = s.confirmPend := rfl
@[simp] theorem State.writeBytes_prevV (s : State) (a : Nat) (bs : List Byte) : (s.writeBytes a bs).prevV = s.prevV := rfl
@[simp] theorem State.writeBytes_band (s : State) (a : Nat) (bs : List Byte) : (s.writeBytes a bs).band = s.band := rfl
@[simp] theorem State.writeBytes_straddle (s : State) (a : Nat) (bs : List Byte) : (s.writeBytes a bs).straddle = s.straddle := rfl
@[simp] theorem State.writeBytes_midpoint (s : State) (a : Nat) (bs : List Byte) : (s.writeBytes a bs).midpoint = s.midpoint := rfl
@[simp] theorem State.writeBytes_maxAmp (s : State) (a : Nat) (bs : List Byte) : (s.writeBytes a bs).maxAmp = s.maxAmp := rfl
@[simp] theorem State.writeBytes_halfAmp (s : State) (a : Nat) (bs : List Byte) : (s.writeBytes a bs).halfAmp = s.halfAmp := rfl
@[simp] theorem State.writeBytes_rawFs (s : State) (a : Nat) (bs : List Byte) : (s.writeBytes a bs).rawFs = s.rawFs := rfl
@[simp] theorem State.writeBytes_calSpan (s : State) (a : Nat) (bs : List Byte) : (s.writeBytes a bs).calSpan = s.calSpan := rfl
@[simp] theorem State.writeBytes_activeIdx (s : State) (a : Nat) (bs : List Byte) : (s.writeBytes a bs).activeIdx = s.activeIdx := rfl
@[simp] theorem State.writeBytes_fill (s : State) (a : Nat) (bs : List Byte) : (s.writeBytes a bs).fill = s.fill := rfl
@[simp] theorem State.writeBytes_readyIdx (s : State) (a : Nat) (bs : List Byte) : (s.writeBytes a bs).readyIdx = s.readyIdx := rfl
@[simp] theorem State.writeBytes_rdyS (s : State) (a : Nat) (bs : List Byte) : (s.writeBytes a bs).rdyS = s.rdyS := rfl
@[simp] theorem State.writeBytes_setPend (s : State) (a : Nat) (bs : List Byte) : (s.writeBytes a bs).setPend = s.setPend := rfl
@[simp] theorem State.writeBytes_clrPend (s : State) (a : Nat) (bs : List Byte) : (s.writeBytes a bs).clrPend = s.clrPend := rfl
@[simp] theorem State.writeBytes_rdyP (s : State) (a : Nat) (bs : List Byte) : (s.writeBytes a bs).rdyP = s.rdyP := rfl
@[simp] theorem State.writeBytes_ridxP (s : State) (a : Nat) (bs : List Byte) : (s.writeBytes a bs).ridxP = s.ridxP := rfl
@[simp] theorem State.writeBytes_auto (s : State) (a : Nat) (bs : List Byte) : (s.writeBytes a bs).auto = s.auto := rfl
@[simp] theorem State.writeBytes_alg (s : State) (a : Nat) (bs : List Byte) : (s.writeBytes a bs).alg = s.alg := rfl
@[simp] theorem State.writeBytes_job (s : State) (a : Nat) (bs : List Byte) : (s.writeBytes a bs).job = s.job := rfl
@[simp] theorem State.writeBytes_jobAlg (s : State) (a : Nat) (bs : List Byte) : (s.writeBytes a bs).jobAlg = s.jobAlg := rfl
@[simp] theorem State.writeBytes_jobFt (s : State) (a : Nat) (bs : List Byte) : (s.writeBytes a bs).jobFt = s.jobFt := rfl
@[simp] theorem State.writeBytes_jobGt (s : State) (a : Nat) (bs : List Byte) : (s.writeBytes a bs).jobGt = s.jobGt := rfl
@[simp] theorem State.writeBytes_jobFidx (s : State) (a : Nat) (bs : List Byte) : (s.writeBytes a bs).jobFidx = s.jobFidx := rfl
@[simp] theorem State.writeBytes_energy (s : State) (a : Nat) (bs : List Byte) : (s.writeBytes a bs).energy = s.energy := rfl
@[simp] theorem State.writeBytes_tone (s : State) (a : Nat) (bs : List Byte) : (s.writeBytes a bs).tone = s.tone := rfl
@[simp] theorem State.writeBytes_lastChar (s : State) (a : Nat) (bs : List Byte) : (s.writeBytes a bs).lastChar = s.lastChar := rfl
@[simp] theorem State.writeBytes_seqLen (s : State) (a : Nat) (bs : List Byte) : (s.writeBytes a bs).seqLen = s.seqLen := rfl
@[simp] theorem State.writeBytes_resultCode (s : State) (a : Nat) (bs : List Byte) : (s.writeBytes a bs).resultCode = s.resultCode := rfl
@[simp] theorem State.writeBytes_resultSym (s : State) (a : Nat) (bs : List Byte) : (s.writeBytes a bs).resultSym = s.resultSym := rfl
@[simp] theorem State.writeBytes_fftThresh (s : State) (a : Nat) (bs : List Byte) : (s.writeBytes a bs).fftThresh = s.fftThresh := rfl
@[simp] theorem State.writeBytes_goeThresh (s : State) (a : Nat) (bs : List Byte) : (s.writeBytes a bs).goeThresh = s.goeThresh := rfl
@[simp] theorem State.writeBytes_event (s : State) (a : Nat) (bs : List Byte) : (s.writeBytes a bs).event = s.event := rfl
@[simp] theorem State.writeBytes_irqEn (s : State) (a : Nat) (bs : List Byte) : (s.writeBytes a bs).irqEn = s.irqEn := rfl
@[simp] theorem State.writeBytes_cuA (s : State) (a : Nat) (bs : List Byte) : (s.writeBytes a bs).cuA = s.cuA := rfl
@[simp] theorem State.writeBytes_cuB (s : State) (a : Nat) (bs : List Byte) : (s.writeBytes a bs).cuB = s.cuB := rfl
@[simp] theorem State.writeBytes_cuR (s : State) (a : Nat) (bs : List Byte) : (s.writeBytes a bs).cuR = s.cuR := rfl
@[simp] theorem State.writeBytes_cuS (s : State) (a : Nat) (bs : List Byte) : (s.writeBytes a bs).cuS = s.cuS := rfl
@[simp] theorem State.writeBytes_cuM (s : State) (a : Nat) (bs : List Byte) : (s.writeBytes a bs).cuM = s.cuM := rfl
@[simp] theorem State.writeBytes_mem (s : State) (a : Nat) (bs : List Byte) : (s.writeBytes a bs).mem = Memory.write s.mem a bs := rfl
@[simp] theorem State.writeBytes_par (s : State) (a : Nat) (bs : List Byte) : (s.writeBytes a bs).par = s.par := rfl
@[simp] theorem State.writeBytes_epoch (s : State) (a : Nat) (bs : List Byte) : (s.writeBytes a bs).epoch = s.epoch := rfl
@[simp] theorem State.writeBytes_draws (s : State) (a : Nat) (bs : List Byte) : (s.writeBytes a bs).draws = s.draws := rfl
@[simp] theorem State.writeBytes_agenda (s : State) (a : Nat) (bs : List Byte) : (s.writeBytes a bs).agenda = s.agenda := rfl
@[simp] theorem State.writeBytes_resp (s : State) (a : Nat) (bs : List Byte) : (s.writeBytes a bs).resp = s.resp := rfl

/-! ### `State.setSample` -/

@[simp] theorem State.setSample_calDone (s : State) (f : FrameIx) (n : Nat) (v : Half) : (s.setSample f n v).calDone = s.calDone := rfl
@[simp] theorem State.setSample_confirmPend (s : State) (f : FrameIx) (n : Nat) (v : Half) : (s.setSample f n v).confirmPend = s.confirmPend := rfl
@[simp] theorem State.setSample_prevV (s : State) (f : FrameIx) (n : Nat) (v : Half) : (s.setSample f n v).prevV = s.prevV := rfl
@[simp] theorem State.setSample_band (s : State) (f : FrameIx) (n : Nat) (v : Half) : (s.setSample f n v).band = s.band := rfl
@[simp] theorem State.setSample_straddle (s : State) (f : FrameIx) (n : Nat) (v : Half) : (s.setSample f n v).straddle = s.straddle := rfl
@[simp] theorem State.setSample_midpoint (s : State) (f : FrameIx) (n : Nat) (v : Half) : (s.setSample f n v).midpoint = s.midpoint := rfl
@[simp] theorem State.setSample_maxAmp (s : State) (f : FrameIx) (n : Nat) (v : Half) : (s.setSample f n v).maxAmp = s.maxAmp := rfl
@[simp] theorem State.setSample_halfAmp (s : State) (f : FrameIx) (n : Nat) (v : Half) : (s.setSample f n v).halfAmp = s.halfAmp := rfl
@[simp] theorem State.setSample_rawFs (s : State) (f : FrameIx) (n : Nat) (v : Half) : (s.setSample f n v).rawFs = s.rawFs := rfl
@[simp] theorem State.setSample_calSpan (s : State) (f : FrameIx) (n : Nat) (v : Half) : (s.setSample f n v).calSpan = s.calSpan := rfl
@[simp] theorem State.setSample_activeIdx (s : State) (f : FrameIx) (n : Nat) (v : Half) : (s.setSample f n v).activeIdx = s.activeIdx := rfl
@[simp] theorem State.setSample_fill (s : State) (f : FrameIx) (n : Nat) (v : Half) : (s.setSample f n v).fill = s.fill := rfl
@[simp] theorem State.setSample_readyIdx (s : State) (f : FrameIx) (n : Nat) (v : Half) : (s.setSample f n v).readyIdx = s.readyIdx := rfl
@[simp] theorem State.setSample_rdyS (s : State) (f : FrameIx) (n : Nat) (v : Half) : (s.setSample f n v).rdyS = s.rdyS := rfl
@[simp] theorem State.setSample_setPend (s : State) (f : FrameIx) (n : Nat) (v : Half) : (s.setSample f n v).setPend = s.setPend := rfl
@[simp] theorem State.setSample_clrPend (s : State) (f : FrameIx) (n : Nat) (v : Half) : (s.setSample f n v).clrPend = s.clrPend := rfl
@[simp] theorem State.setSample_rdyP (s : State) (f : FrameIx) (n : Nat) (v : Half) : (s.setSample f n v).rdyP = s.rdyP := rfl
@[simp] theorem State.setSample_ridxP (s : State) (f : FrameIx) (n : Nat) (v : Half) : (s.setSample f n v).ridxP = s.ridxP := rfl
@[simp] theorem State.setSample_auto (s : State) (f : FrameIx) (n : Nat) (v : Half) : (s.setSample f n v).auto = s.auto := rfl
@[simp] theorem State.setSample_alg (s : State) (f : FrameIx) (n : Nat) (v : Half) : (s.setSample f n v).alg = s.alg := rfl
@[simp] theorem State.setSample_job (s : State) (f : FrameIx) (n : Nat) (v : Half) : (s.setSample f n v).job = s.job := rfl
@[simp] theorem State.setSample_jobAlg (s : State) (f : FrameIx) (n : Nat) (v : Half) : (s.setSample f n v).jobAlg = s.jobAlg := rfl
@[simp] theorem State.setSample_jobFt (s : State) (f : FrameIx) (n : Nat) (v : Half) : (s.setSample f n v).jobFt = s.jobFt := rfl
@[simp] theorem State.setSample_jobGt (s : State) (f : FrameIx) (n : Nat) (v : Half) : (s.setSample f n v).jobGt = s.jobGt := rfl
@[simp] theorem State.setSample_jobFidx (s : State) (f : FrameIx) (n : Nat) (v : Half) : (s.setSample f n v).jobFidx = s.jobFidx := rfl
@[simp] theorem State.setSample_energy (s : State) (f : FrameIx) (n : Nat) (v : Half) : (s.setSample f n v).energy = s.energy := rfl
@[simp] theorem State.setSample_tone (s : State) (f : FrameIx) (n : Nat) (v : Half) : (s.setSample f n v).tone = s.tone := rfl
@[simp] theorem State.setSample_lastChar (s : State) (f : FrameIx) (n : Nat) (v : Half) : (s.setSample f n v).lastChar = s.lastChar := rfl
@[simp] theorem State.setSample_seqLen (s : State) (f : FrameIx) (n : Nat) (v : Half) : (s.setSample f n v).seqLen = s.seqLen := rfl
@[simp] theorem State.setSample_resultCode (s : State) (f : FrameIx) (n : Nat) (v : Half) : (s.setSample f n v).resultCode = s.resultCode := rfl
@[simp] theorem State.setSample_resultSym (s : State) (f : FrameIx) (n : Nat) (v : Half) : (s.setSample f n v).resultSym = s.resultSym := rfl
@[simp] theorem State.setSample_fftThresh (s : State) (f : FrameIx) (n : Nat) (v : Half) : (s.setSample f n v).fftThresh = s.fftThresh := rfl
@[simp] theorem State.setSample_goeThresh (s : State) (f : FrameIx) (n : Nat) (v : Half) : (s.setSample f n v).goeThresh = s.goeThresh := rfl
@[simp] theorem State.setSample_event (s : State) (f : FrameIx) (n : Nat) (v : Half) : (s.setSample f n v).event = s.event := rfl
@[simp] theorem State.setSample_irqEn (s : State) (f : FrameIx) (n : Nat) (v : Half) : (s.setSample f n v).irqEn = s.irqEn := rfl
@[simp] theorem State.setSample_cuA (s : State) (f : FrameIx) (n : Nat) (v : Half) : (s.setSample f n v).cuA = s.cuA := rfl
@[simp] theorem State.setSample_cuB (s : State) (f : FrameIx) (n : Nat) (v : Half) : (s.setSample f n v).cuB = s.cuB := rfl
@[simp] theorem State.setSample_cuR (s : State) (f : FrameIx) (n : Nat) (v : Half) : (s.setSample f n v).cuR = s.cuR := rfl
@[simp] theorem State.setSample_cuS (s : State) (f : FrameIx) (n : Nat) (v : Half) : (s.setSample f n v).cuS = s.cuS := rfl
@[simp] theorem State.setSample_cuM (s : State) (f : FrameIx) (n : Nat) (v : Half) : (s.setSample f n v).cuM = s.cuM := rfl
@[simp] theorem State.setSample_mem (s : State) (f : FrameIx) (n : Nat) (v : Half) : (s.setSample f n v).mem = Memory.write s.mem (sampleAddr f n) (halfBytes v) := rfl
@[simp] theorem State.setSample_par (s : State) (f : FrameIx) (n : Nat) (v : Half) : (s.setSample f n v).par = s.par := rfl
@[simp] theorem State.setSample_epoch (s : State) (f : FrameIx) (n : Nat) (v : Half) : (s.setSample f n v).epoch = s.epoch := rfl
@[simp] theorem State.setSample_draws (s : State) (f : FrameIx) (n : Nat) (v : Half) : (s.setSample f n v).draws = s.draws := rfl
@[simp] theorem State.setSample_agenda (s : State) (f : FrameIx) (n : Nat) (v : Half) : (s.setSample f n v).agenda = s.agenda := rfl
@[simp] theorem State.setSample_resp (s : State) (f : FrameIx) (n : Nat) (v : Half) : (s.setSample f n v).resp = s.resp := rfl

/-! ### `State.setSpectrum` -/

@[simp] theorem State.setSpectrum_calDone (s : State) (bins : List Cx) : (s.setSpectrum bins).calDone = s.calDone := rfl
@[simp] theorem State.setSpectrum_confirmPend (s : State) (bins : List Cx) : (s.setSpectrum bins).confirmPend = s.confirmPend := rfl
@[simp] theorem State.setSpectrum_prevV (s : State) (bins : List Cx) : (s.setSpectrum bins).prevV = s.prevV := rfl
@[simp] theorem State.setSpectrum_band (s : State) (bins : List Cx) : (s.setSpectrum bins).band = s.band := rfl
@[simp] theorem State.setSpectrum_straddle (s : State) (bins : List Cx) : (s.setSpectrum bins).straddle = s.straddle := rfl
@[simp] theorem State.setSpectrum_midpoint (s : State) (bins : List Cx) : (s.setSpectrum bins).midpoint = s.midpoint := rfl
@[simp] theorem State.setSpectrum_maxAmp (s : State) (bins : List Cx) : (s.setSpectrum bins).maxAmp = s.maxAmp := rfl
@[simp] theorem State.setSpectrum_halfAmp (s : State) (bins : List Cx) : (s.setSpectrum bins).halfAmp = s.halfAmp := rfl
@[simp] theorem State.setSpectrum_rawFs (s : State) (bins : List Cx) : (s.setSpectrum bins).rawFs = s.rawFs := rfl
@[simp] theorem State.setSpectrum_calSpan (s : State) (bins : List Cx) : (s.setSpectrum bins).calSpan = s.calSpan := rfl
@[simp] theorem State.setSpectrum_activeIdx (s : State) (bins : List Cx) : (s.setSpectrum bins).activeIdx = s.activeIdx := rfl
@[simp] theorem State.setSpectrum_fill (s : State) (bins : List Cx) : (s.setSpectrum bins).fill = s.fill := rfl
@[simp] theorem State.setSpectrum_readyIdx (s : State) (bins : List Cx) : (s.setSpectrum bins).readyIdx = s.readyIdx := rfl
@[simp] theorem State.setSpectrum_rdyS (s : State) (bins : List Cx) : (s.setSpectrum bins).rdyS = s.rdyS := rfl
@[simp] theorem State.setSpectrum_setPend (s : State) (bins : List Cx) : (s.setSpectrum bins).setPend = s.setPend := rfl
@[simp] theorem State.setSpectrum_clrPend (s : State) (bins : List Cx) : (s.setSpectrum bins).clrPend = s.clrPend := rfl
@[simp] theorem State.setSpectrum_rdyP (s : State) (bins : List Cx) : (s.setSpectrum bins).rdyP = s.rdyP := rfl
@[simp] theorem State.setSpectrum_ridxP (s : State) (bins : List Cx) : (s.setSpectrum bins).ridxP = s.ridxP := rfl
@[simp] theorem State.setSpectrum_auto (s : State) (bins : List Cx) : (s.setSpectrum bins).auto = s.auto := rfl
@[simp] theorem State.setSpectrum_alg (s : State) (bins : List Cx) : (s.setSpectrum bins).alg = s.alg := rfl
@[simp] theorem State.setSpectrum_job (s : State) (bins : List Cx) : (s.setSpectrum bins).job = s.job := rfl
@[simp] theorem State.setSpectrum_jobAlg (s : State) (bins : List Cx) : (s.setSpectrum bins).jobAlg = s.jobAlg := rfl
@[simp] theorem State.setSpectrum_jobFt (s : State) (bins : List Cx) : (s.setSpectrum bins).jobFt = s.jobFt := rfl
@[simp] theorem State.setSpectrum_jobGt (s : State) (bins : List Cx) : (s.setSpectrum bins).jobGt = s.jobGt := rfl
@[simp] theorem State.setSpectrum_jobFidx (s : State) (bins : List Cx) : (s.setSpectrum bins).jobFidx = s.jobFidx := rfl
@[simp] theorem State.setSpectrum_energy (s : State) (bins : List Cx) : (s.setSpectrum bins).energy = s.energy := rfl
@[simp] theorem State.setSpectrum_tone (s : State) (bins : List Cx) : (s.setSpectrum bins).tone = s.tone := rfl
@[simp] theorem State.setSpectrum_lastChar (s : State) (bins : List Cx) : (s.setSpectrum bins).lastChar = s.lastChar := rfl
@[simp] theorem State.setSpectrum_seqLen (s : State) (bins : List Cx) : (s.setSpectrum bins).seqLen = s.seqLen := rfl
@[simp] theorem State.setSpectrum_resultCode (s : State) (bins : List Cx) : (s.setSpectrum bins).resultCode = s.resultCode := rfl
@[simp] theorem State.setSpectrum_resultSym (s : State) (bins : List Cx) : (s.setSpectrum bins).resultSym = s.resultSym := rfl
@[simp] theorem State.setSpectrum_fftThresh (s : State) (bins : List Cx) : (s.setSpectrum bins).fftThresh = s.fftThresh := rfl
@[simp] theorem State.setSpectrum_goeThresh (s : State) (bins : List Cx) : (s.setSpectrum bins).goeThresh = s.goeThresh := rfl
@[simp] theorem State.setSpectrum_event (s : State) (bins : List Cx) : (s.setSpectrum bins).event = s.event := rfl
@[simp] theorem State.setSpectrum_irqEn (s : State) (bins : List Cx) : (s.setSpectrum bins).irqEn = s.irqEn := rfl
@[simp] theorem State.setSpectrum_cuA (s : State) (bins : List Cx) : (s.setSpectrum bins).cuA = s.cuA := rfl
@[simp] theorem State.setSpectrum_cuB (s : State) (bins : List Cx) : (s.setSpectrum bins).cuB = s.cuB := rfl
@[simp] theorem State.setSpectrum_cuR (s : State) (bins : List Cx) : (s.setSpectrum bins).cuR = s.cuR := rfl
@[simp] theorem State.setSpectrum_cuS (s : State) (bins : List Cx) : (s.setSpectrum bins).cuS = s.cuS := rfl
@[simp] theorem State.setSpectrum_cuM (s : State) (bins : List Cx) : (s.setSpectrum bins).cuM = s.cuM := rfl
@[simp] theorem State.setSpectrum_mem (s : State) (bins : List Cx) : (s.setSpectrum bins).mem = Memory.write s.mem (binAddr 0) (bins.flatMap fun z => binBytes (storedOf z)) := rfl
@[simp] theorem State.setSpectrum_par (s : State) (bins : List Cx) : (s.setSpectrum bins).par = s.par := rfl
@[simp] theorem State.setSpectrum_epoch (s : State) (bins : List Cx) : (s.setSpectrum bins).epoch = s.epoch := rfl
@[simp] theorem State.setSpectrum_draws (s : State) (bins : List Cx) : (s.setSpectrum bins).draws = s.draws := rfl
@[simp] theorem State.setSpectrum_agenda (s : State) (bins : List Cx) : (s.setSpectrum bins).agenda = s.agenda := rfl
@[simp] theorem State.setSpectrum_resp (s : State) (bins : List Cx) : (s.setSpectrum bins).resp = s.resp := rfl

/-! ### `State.setSeqChar` -/

@[simp] theorem State.setSeqChar_calDone (s : State) (i : Nat) (c : Byte) : (s.setSeqChar i c).calDone = s.calDone := rfl
@[simp] theorem State.setSeqChar_confirmPend (s : State) (i : Nat) (c : Byte) : (s.setSeqChar i c).confirmPend = s.confirmPend := rfl
@[simp] theorem State.setSeqChar_prevV (s : State) (i : Nat) (c : Byte) : (s.setSeqChar i c).prevV = s.prevV := rfl
@[simp] theorem State.setSeqChar_band (s : State) (i : Nat) (c : Byte) : (s.setSeqChar i c).band = s.band := rfl
@[simp] theorem State.setSeqChar_straddle (s : State) (i : Nat) (c : Byte) : (s.setSeqChar i c).straddle = s.straddle := rfl
@[simp] theorem State.setSeqChar_midpoint (s : State) (i : Nat) (c : Byte) : (s.setSeqChar i c).midpoint = s.midpoint := rfl
@[simp] theorem State.setSeqChar_maxAmp (s : State) (i : Nat) (c : Byte) : (s.setSeqChar i c).maxAmp = s.maxAmp := rfl
@[simp] theorem State.setSeqChar_halfAmp (s : State) (i : Nat) (c : Byte) : (s.setSeqChar i c).halfAmp = s.halfAmp := rfl
@[simp] theorem State.setSeqChar_rawFs (s : State) (i : Nat) (c : Byte) : (s.setSeqChar i c).rawFs = s.rawFs := rfl
@[simp] theorem State.setSeqChar_calSpan (s : State) (i : Nat) (c : Byte) : (s.setSeqChar i c).calSpan = s.calSpan := rfl
@[simp] theorem State.setSeqChar_activeIdx (s : State) (i : Nat) (c : Byte) : (s.setSeqChar i c).activeIdx = s.activeIdx := rfl
@[simp] theorem State.setSeqChar_fill (s : State) (i : Nat) (c : Byte) : (s.setSeqChar i c).fill = s.fill := rfl
@[simp] theorem State.setSeqChar_readyIdx (s : State) (i : Nat) (c : Byte) : (s.setSeqChar i c).readyIdx = s.readyIdx := rfl
@[simp] theorem State.setSeqChar_rdyS (s : State) (i : Nat) (c : Byte) : (s.setSeqChar i c).rdyS = s.rdyS := rfl
@[simp] theorem State.setSeqChar_setPend (s : State) (i : Nat) (c : Byte) : (s.setSeqChar i c).setPend = s.setPend := rfl
@[simp] theorem State.setSeqChar_clrPend (s : State) (i : Nat) (c : Byte) : (s.setSeqChar i c).clrPend = s.clrPend := rfl
@[simp] theorem State.setSeqChar_rdyP (s : State) (i : Nat) (c : Byte) : (s.setSeqChar i c).rdyP = s.rdyP := rfl
@[simp] theorem State.setSeqChar_ridxP (s : State) (i : Nat) (c : Byte) : (s.setSeqChar i c).ridxP = s.ridxP := rfl
@[simp] theorem State.setSeqChar_auto (s : State) (i : Nat) (c : Byte) : (s.setSeqChar i c).auto = s.auto := rfl
@[simp] theorem State.setSeqChar_alg (s : State) (i : Nat) (c : Byte) : (s.setSeqChar i c).alg = s.alg := rfl
@[simp] theorem State.setSeqChar_job (s : State) (i : Nat) (c : Byte) : (s.setSeqChar i c).job = s.job := rfl
@[simp] theorem State.setSeqChar_jobAlg (s : State) (i : Nat) (c : Byte) : (s.setSeqChar i c).jobAlg = s.jobAlg := rfl
@[simp] theorem State.setSeqChar_jobFt (s : State) (i : Nat) (c : Byte) : (s.setSeqChar i c).jobFt = s.jobFt := rfl
@[simp] theorem State.setSeqChar_jobGt (s : State) (i : Nat) (c : Byte) : (s.setSeqChar i c).jobGt = s.jobGt := rfl
@[simp] theorem State.setSeqChar_jobFidx (s : State) (i : Nat) (c : Byte) : (s.setSeqChar i c).jobFidx = s.jobFidx := rfl
@[simp] theorem State.setSeqChar_energy (s : State) (i : Nat) (c : Byte) : (s.setSeqChar i c).energy = s.energy := rfl
@[simp] theorem State.setSeqChar_tone (s : State) (i : Nat) (c : Byte) : (s.setSeqChar i c).tone = s.tone := rfl
@[simp] theorem State.setSeqChar_lastChar (s : State) (i : Nat) (c : Byte) : (s.setSeqChar i c).lastChar = s.lastChar := rfl
@[simp] theorem State.setSeqChar_seqLen (s : State) (i : Nat) (c : Byte) : (s.setSeqChar i c).seqLen = s.seqLen := rfl
@[simp] theorem State.setSeqChar_resultCode (s : State) (i : Nat) (c : Byte) : (s.setSeqChar i c).resultCode = s.resultCode := rfl
@[simp] theorem State.setSeqChar_resultSym (s : State) (i : Nat) (c : Byte) : (s.setSeqChar i c).resultSym = s.resultSym := rfl
@[simp] theorem State.setSeqChar_fftThresh (s : State) (i : Nat) (c : Byte) : (s.setSeqChar i c).fftThresh = s.fftThresh := rfl
@[simp] theorem State.setSeqChar_goeThresh (s : State) (i : Nat) (c : Byte) : (s.setSeqChar i c).goeThresh = s.goeThresh := rfl
@[simp] theorem State.setSeqChar_event (s : State) (i : Nat) (c : Byte) : (s.setSeqChar i c).event = s.event := rfl
@[simp] theorem State.setSeqChar_irqEn (s : State) (i : Nat) (c : Byte) : (s.setSeqChar i c).irqEn = s.irqEn := rfl
@[simp] theorem State.setSeqChar_cuA (s : State) (i : Nat) (c : Byte) : (s.setSeqChar i c).cuA = s.cuA := rfl
@[simp] theorem State.setSeqChar_cuB (s : State) (i : Nat) (c : Byte) : (s.setSeqChar i c).cuB = s.cuB := rfl
@[simp] theorem State.setSeqChar_cuR (s : State) (i : Nat) (c : Byte) : (s.setSeqChar i c).cuR = s.cuR := rfl
@[simp] theorem State.setSeqChar_cuS (s : State) (i : Nat) (c : Byte) : (s.setSeqChar i c).cuS = s.cuS := rfl
@[simp] theorem State.setSeqChar_cuM (s : State) (i : Nat) (c : Byte) : (s.setSeqChar i c).cuM = s.cuM := rfl
@[simp] theorem State.setSeqChar_mem (s : State) (i : Nat) (c : Byte) : (s.setSeqChar i c).mem = Memory.write s.mem (seqAddr i) [c] := rfl
@[simp] theorem State.setSeqChar_par (s : State) (i : Nat) (c : Byte) : (s.setSeqChar i c).par = s.par := rfl
@[simp] theorem State.setSeqChar_epoch (s : State) (i : Nat) (c : Byte) : (s.setSeqChar i c).epoch = s.epoch := rfl
@[simp] theorem State.setSeqChar_draws (s : State) (i : Nat) (c : Byte) : (s.setSeqChar i c).draws = s.draws := rfl
@[simp] theorem State.setSeqChar_agenda (s : State) (i : Nat) (c : Byte) : (s.setSeqChar i c).agenda = s.agenda := rfl
@[simp] theorem State.setSeqChar_resp (s : State) (i : Nat) (c : Byte) : (s.setSeqChar i c).resp = s.resp := rfl

/-! ### `State.clearEvents` -/

@[simp] theorem State.clearEvents_calDone (s : State) (d : Word) : (s.clearEvents d).calDone = s.calDone := rfl
@[simp] theorem State.clearEvents_confirmPend (s : State) (d : Word) : (s.clearEvents d).confirmPend = s.confirmPend := rfl
@[simp] theorem State.clearEvents_prevV (s : State) (d : Word) : (s.clearEvents d).prevV = s.prevV := rfl
@[simp] theorem State.clearEvents_band (s : State) (d : Word) : (s.clearEvents d).band = s.band := rfl
@[simp] theorem State.clearEvents_straddle (s : State) (d : Word) : (s.clearEvents d).straddle = s.straddle := rfl
@[simp] theorem State.clearEvents_midpoint (s : State) (d : Word) : (s.clearEvents d).midpoint = s.midpoint := rfl
@[simp] theorem State.clearEvents_maxAmp (s : State) (d : Word) : (s.clearEvents d).maxAmp = s.maxAmp := rfl
@[simp] theorem State.clearEvents_halfAmp (s : State) (d : Word) : (s.clearEvents d).halfAmp = s.halfAmp := rfl
@[simp] theorem State.clearEvents_rawFs (s : State) (d : Word) : (s.clearEvents d).rawFs = s.rawFs := rfl
@[simp] theorem State.clearEvents_calSpan (s : State) (d : Word) : (s.clearEvents d).calSpan = s.calSpan := rfl
@[simp] theorem State.clearEvents_activeIdx (s : State) (d : Word) : (s.clearEvents d).activeIdx = s.activeIdx := rfl
@[simp] theorem State.clearEvents_fill (s : State) (d : Word) : (s.clearEvents d).fill = s.fill := rfl
@[simp] theorem State.clearEvents_readyIdx (s : State) (d : Word) : (s.clearEvents d).readyIdx = s.readyIdx := rfl
@[simp] theorem State.clearEvents_rdyS (s : State) (d : Word) : (s.clearEvents d).rdyS = s.rdyS := rfl
@[simp] theorem State.clearEvents_setPend (s : State) (d : Word) : (s.clearEvents d).setPend = s.setPend := rfl
@[simp] theorem State.clearEvents_clrPend (s : State) (d : Word) : (s.clearEvents d).clrPend = s.clrPend := rfl
@[simp] theorem State.clearEvents_rdyP (s : State) (d : Word) : (s.clearEvents d).rdyP = s.rdyP := rfl
@[simp] theorem State.clearEvents_ridxP (s : State) (d : Word) : (s.clearEvents d).ridxP = s.ridxP := rfl
@[simp] theorem State.clearEvents_auto (s : State) (d : Word) : (s.clearEvents d).auto = s.auto := rfl
@[simp] theorem State.clearEvents_alg (s : State) (d : Word) : (s.clearEvents d).alg = s.alg := rfl
@[simp] theorem State.clearEvents_job (s : State) (d : Word) : (s.clearEvents d).job = s.job := rfl
@[simp] theorem State.clearEvents_jobAlg (s : State) (d : Word) : (s.clearEvents d).jobAlg = s.jobAlg := rfl
@[simp] theorem State.clearEvents_jobFt (s : State) (d : Word) : (s.clearEvents d).jobFt = s.jobFt := rfl
@[simp] theorem State.clearEvents_jobGt (s : State) (d : Word) : (s.clearEvents d).jobGt = s.jobGt := rfl
@[simp] theorem State.clearEvents_jobFidx (s : State) (d : Word) : (s.clearEvents d).jobFidx = s.jobFidx := rfl
@[simp] theorem State.clearEvents_energy (s : State) (d : Word) : (s.clearEvents d).energy = s.energy := rfl
@[simp] theorem State.clearEvents_tone (s : State) (d : Word) : (s.clearEvents d).tone = s.tone := rfl
@[simp] theorem State.clearEvents_lastChar (s : State) (d : Word) : (s.clearEvents d).lastChar = s.lastChar := rfl
@[simp] theorem State.clearEvents_seqLen (s : State) (d : Word) : (s.clearEvents d).seqLen = s.seqLen := rfl
@[simp] theorem State.clearEvents_resultCode (s : State) (d : Word) : (s.clearEvents d).resultCode = s.resultCode := rfl
@[simp] theorem State.clearEvents_resultSym (s : State) (d : Word) : (s.clearEvents d).resultSym = s.resultSym := rfl
@[simp] theorem State.clearEvents_fftThresh (s : State) (d : Word) : (s.clearEvents d).fftThresh = s.fftThresh := rfl
@[simp] theorem State.clearEvents_goeThresh (s : State) (d : Word) : (s.clearEvents d).goeThresh = s.goeThresh := rfl
@[simp] theorem State.clearEvents_event (s : State) (d : Word) : (s.clearEvents d).event = s.event &&& ~~~(d.setWidth 9) := rfl
@[simp] theorem State.clearEvents_irqEn (s : State) (d : Word) : (s.clearEvents d).irqEn = s.irqEn := rfl
@[simp] theorem State.clearEvents_cuA (s : State) (d : Word) : (s.clearEvents d).cuA = s.cuA := rfl
@[simp] theorem State.clearEvents_cuB (s : State) (d : Word) : (s.clearEvents d).cuB = s.cuB := rfl
@[simp] theorem State.clearEvents_cuR (s : State) (d : Word) : (s.clearEvents d).cuR = s.cuR := rfl
@[simp] theorem State.clearEvents_cuS (s : State) (d : Word) : (s.clearEvents d).cuS = s.cuS := rfl
@[simp] theorem State.clearEvents_cuM (s : State) (d : Word) : (s.clearEvents d).cuM = s.cuM := rfl
@[simp] theorem State.clearEvents_mem (s : State) (d : Word) : (s.clearEvents d).mem = s.mem := rfl
@[simp] theorem State.clearEvents_par (s : State) (d : Word) : (s.clearEvents d).par = s.par := rfl
@[simp] theorem State.clearEvents_epoch (s : State) (d : Word) : (s.clearEvents d).epoch = s.epoch := rfl
@[simp] theorem State.clearEvents_draws (s : State) (d : Word) : (s.clearEvents d).draws = s.draws := rfl
@[simp] theorem State.clearEvents_agenda (s : State) (d : Word) : (s.clearEvents d).agenda = s.agenda := rfl
@[simp] theorem State.clearEvents_resp (s : State) (d : Word) : (s.clearEvents d).resp = s.resp := rfl

/-! ### `State.setResult` -/

@[simp] theorem State.setResult_calDone (s : State) (c : ResultCode) (sym : Byte) : (s.setResult c sym).calDone = s.calDone := rfl
@[simp] theorem State.setResult_confirmPend (s : State) (c : ResultCode) (sym : Byte) : (s.setResult c sym).confirmPend = s.confirmPend := rfl
@[simp] theorem State.setResult_prevV (s : State) (c : ResultCode) (sym : Byte) : (s.setResult c sym).prevV = s.prevV := rfl
@[simp] theorem State.setResult_band (s : State) (c : ResultCode) (sym : Byte) : (s.setResult c sym).band = s.band := rfl
@[simp] theorem State.setResult_straddle (s : State) (c : ResultCode) (sym : Byte) : (s.setResult c sym).straddle = s.straddle := rfl
@[simp] theorem State.setResult_midpoint (s : State) (c : ResultCode) (sym : Byte) : (s.setResult c sym).midpoint = s.midpoint := rfl
@[simp] theorem State.setResult_maxAmp (s : State) (c : ResultCode) (sym : Byte) : (s.setResult c sym).maxAmp = s.maxAmp := rfl
@[simp] theorem State.setResult_halfAmp (s : State) (c : ResultCode) (sym : Byte) : (s.setResult c sym).halfAmp = s.halfAmp := rfl
@[simp] theorem State.setResult_rawFs (s : State) (c : ResultCode) (sym : Byte) : (s.setResult c sym).rawFs = s.rawFs := rfl
@[simp] theorem State.setResult_calSpan (s : State) (c : ResultCode) (sym : Byte) : (s.setResult c sym).calSpan = s.calSpan := rfl
@[simp] theorem State.setResult_activeIdx (s : State) (c : ResultCode) (sym : Byte) : (s.setResult c sym).activeIdx = s.activeIdx := rfl
@[simp] theorem State.setResult_fill (s : State) (c : ResultCode) (sym : Byte) : (s.setResult c sym).fill = s.fill := rfl
@[simp] theorem State.setResult_readyIdx (s : State) (c : ResultCode) (sym : Byte) : (s.setResult c sym).readyIdx = s.readyIdx := rfl
@[simp] theorem State.setResult_rdyS (s : State) (c : ResultCode) (sym : Byte) : (s.setResult c sym).rdyS = s.rdyS := rfl
@[simp] theorem State.setResult_setPend (s : State) (c : ResultCode) (sym : Byte) : (s.setResult c sym).setPend = s.setPend := rfl
@[simp] theorem State.setResult_clrPend (s : State) (c : ResultCode) (sym : Byte) : (s.setResult c sym).clrPend = s.clrPend := rfl
@[simp] theorem State.setResult_rdyP (s : State) (c : ResultCode) (sym : Byte) : (s.setResult c sym).rdyP = s.rdyP := rfl
@[simp] theorem State.setResult_ridxP (s : State) (c : ResultCode) (sym : Byte) : (s.setResult c sym).ridxP = s.ridxP := rfl
@[simp] theorem State.setResult_auto (s : State) (c : ResultCode) (sym : Byte) : (s.setResult c sym).auto = s.auto := rfl
@[simp] theorem State.setResult_alg (s : State) (c : ResultCode) (sym : Byte) : (s.setResult c sym).alg = s.alg := rfl
@[simp] theorem State.setResult_job (s : State) (c : ResultCode) (sym : Byte) : (s.setResult c sym).job = s.job := rfl
@[simp] theorem State.setResult_jobAlg (s : State) (c : ResultCode) (sym : Byte) : (s.setResult c sym).jobAlg = s.jobAlg := rfl
@[simp] theorem State.setResult_jobFt (s : State) (c : ResultCode) (sym : Byte) : (s.setResult c sym).jobFt = s.jobFt := rfl
@[simp] theorem State.setResult_jobGt (s : State) (c : ResultCode) (sym : Byte) : (s.setResult c sym).jobGt = s.jobGt := rfl
@[simp] theorem State.setResult_jobFidx (s : State) (c : ResultCode) (sym : Byte) : (s.setResult c sym).jobFidx = s.jobFidx := rfl
@[simp] theorem State.setResult_energy (s : State) (c : ResultCode) (sym : Byte) : (s.setResult c sym).energy = s.energy := rfl
@[simp] theorem State.setResult_tone (s : State) (c : ResultCode) (sym : Byte) : (s.setResult c sym).tone = s.tone := rfl
@[simp] theorem State.setResult_lastChar (s : State) (c : ResultCode) (sym : Byte) : (s.setResult c sym).lastChar = s.lastChar := rfl
@[simp] theorem State.setResult_seqLen (s : State) (c : ResultCode) (sym : Byte) : (s.setResult c sym).seqLen = s.seqLen := rfl
@[simp] theorem State.setResult_resultCode (s : State) (c : ResultCode) (sym : Byte) : (s.setResult c sym).resultCode = c := rfl
@[simp] theorem State.setResult_resultSym (s : State) (c : ResultCode) (sym : Byte) : (s.setResult c sym).resultSym = sym := rfl
@[simp] theorem State.setResult_fftThresh (s : State) (c : ResultCode) (sym : Byte) : (s.setResult c sym).fftThresh = s.fftThresh := rfl
@[simp] theorem State.setResult_goeThresh (s : State) (c : ResultCode) (sym : Byte) : (s.setResult c sym).goeThresh = s.goeThresh := rfl
@[simp] theorem State.setResult_event (s : State) (c : ResultCode) (sym : Byte) : (s.setResult c sym).event = s.event := rfl
@[simp] theorem State.setResult_irqEn (s : State) (c : ResultCode) (sym : Byte) : (s.setResult c sym).irqEn = s.irqEn := rfl
@[simp] theorem State.setResult_cuA (s : State) (c : ResultCode) (sym : Byte) : (s.setResult c sym).cuA = s.cuA := rfl
@[simp] theorem State.setResult_cuB (s : State) (c : ResultCode) (sym : Byte) : (s.setResult c sym).cuB = s.cuB := rfl
@[simp] theorem State.setResult_cuR (s : State) (c : ResultCode) (sym : Byte) : (s.setResult c sym).cuR = s.cuR := rfl
@[simp] theorem State.setResult_cuS (s : State) (c : ResultCode) (sym : Byte) : (s.setResult c sym).cuS = s.cuS := rfl
@[simp] theorem State.setResult_cuM (s : State) (c : ResultCode) (sym : Byte) : (s.setResult c sym).cuM = s.cuM := rfl
@[simp] theorem State.setResult_mem (s : State) (c : ResultCode) (sym : Byte) : (s.setResult c sym).mem = s.mem := rfl
@[simp] theorem State.setResult_par (s : State) (c : ResultCode) (sym : Byte) : (s.setResult c sym).par = s.par := rfl
@[simp] theorem State.setResult_epoch (s : State) (c : ResultCode) (sym : Byte) : (s.setResult c sym).epoch = s.epoch := rfl
@[simp] theorem State.setResult_draws (s : State) (c : ResultCode) (sym : Byte) : (s.setResult c sym).draws = s.draws := rfl
@[simp] theorem State.setResult_agenda (s : State) (c : ResultCode) (sym : Byte) : (s.setResult c sym).agenda = s.agenda := rfl
@[simp] theorem State.setResult_resp (s : State) (c : ResultCode) (sym : Byte) : (s.setResult c sym).resp = s.resp := rfl

/-! ### `State.setEnergy` -/

@[simp] theorem State.setEnergy_calDone (s : State) (b : Nat) (v : Dword) : (s.setEnergy b v).calDone = s.calDone := rfl
@[simp] theorem State.setEnergy_confirmPend (s : State) (b : Nat) (v : Dword) : (s.setEnergy b v).confirmPend = s.confirmPend := rfl
@[simp] theorem State.setEnergy_prevV (s : State) (b : Nat) (v : Dword) : (s.setEnergy b v).prevV = s.prevV := rfl
@[simp] theorem State.setEnergy_band (s : State) (b : Nat) (v : Dword) : (s.setEnergy b v).band = s.band := rfl
@[simp] theorem State.setEnergy_straddle (s : State) (b : Nat) (v : Dword) : (s.setEnergy b v).straddle = s.straddle := rfl
@[simp] theorem State.setEnergy_midpoint (s : State) (b : Nat) (v : Dword) : (s.setEnergy b v).midpoint = s.midpoint := rfl
@[simp] theorem State.setEnergy_maxAmp (s : State) (b : Nat) (v : Dword) : (s.setEnergy b v).maxAmp = s.maxAmp := rfl
@[simp] theorem State.setEnergy_halfAmp (s : State) (b : Nat) (v : Dword) : (s.setEnergy b v).halfAmp = s.halfAmp := rfl
@[simp] theorem State.setEnergy_rawFs (s : State) (b : Nat) (v : Dword) : (s.setEnergy b v).rawFs = s.rawFs := rfl
@[simp] theorem State.setEnergy_calSpan (s : State) (b : Nat) (v : Dword) : (s.setEnergy b v).calSpan = s.calSpan := rfl
@[simp] theorem State.setEnergy_activeIdx (s : State) (b : Nat) (v : Dword) : (s.setEnergy b v).activeIdx = s.activeIdx := rfl
@[simp] theorem State.setEnergy_fill (s : State) (b : Nat) (v : Dword) : (s.setEnergy b v).fill = s.fill := rfl
@[simp] theorem State.setEnergy_readyIdx (s : State) (b : Nat) (v : Dword) : (s.setEnergy b v).readyIdx = s.readyIdx := rfl
@[simp] theorem State.setEnergy_rdyS (s : State) (b : Nat) (v : Dword) : (s.setEnergy b v).rdyS = s.rdyS := rfl
@[simp] theorem State.setEnergy_setPend (s : State) (b : Nat) (v : Dword) : (s.setEnergy b v).setPend = s.setPend := rfl
@[simp] theorem State.setEnergy_clrPend (s : State) (b : Nat) (v : Dword) : (s.setEnergy b v).clrPend = s.clrPend := rfl
@[simp] theorem State.setEnergy_rdyP (s : State) (b : Nat) (v : Dword) : (s.setEnergy b v).rdyP = s.rdyP := rfl
@[simp] theorem State.setEnergy_ridxP (s : State) (b : Nat) (v : Dword) : (s.setEnergy b v).ridxP = s.ridxP := rfl
@[simp] theorem State.setEnergy_auto (s : State) (b : Nat) (v : Dword) : (s.setEnergy b v).auto = s.auto := rfl
@[simp] theorem State.setEnergy_alg (s : State) (b : Nat) (v : Dword) : (s.setEnergy b v).alg = s.alg := rfl
@[simp] theorem State.setEnergy_job (s : State) (b : Nat) (v : Dword) : (s.setEnergy b v).job = s.job := rfl
@[simp] theorem State.setEnergy_jobAlg (s : State) (b : Nat) (v : Dword) : (s.setEnergy b v).jobAlg = s.jobAlg := rfl
@[simp] theorem State.setEnergy_jobFt (s : State) (b : Nat) (v : Dword) : (s.setEnergy b v).jobFt = s.jobFt := rfl
@[simp] theorem State.setEnergy_jobGt (s : State) (b : Nat) (v : Dword) : (s.setEnergy b v).jobGt = s.jobGt := rfl
@[simp] theorem State.setEnergy_jobFidx (s : State) (b : Nat) (v : Dword) : (s.setEnergy b v).jobFidx = s.jobFidx := rfl
@[simp] theorem State.setEnergy_energy (s : State) (b : Nat) (v : Dword) : (s.setEnergy b v).energy = s.energy.setIfInBounds b v := rfl
@[simp] theorem State.setEnergy_tone (s : State) (b : Nat) (v : Dword) : (s.setEnergy b v).tone = s.tone := rfl
@[simp] theorem State.setEnergy_lastChar (s : State) (b : Nat) (v : Dword) : (s.setEnergy b v).lastChar = s.lastChar := rfl
@[simp] theorem State.setEnergy_seqLen (s : State) (b : Nat) (v : Dword) : (s.setEnergy b v).seqLen = s.seqLen := rfl
@[simp] theorem State.setEnergy_resultCode (s : State) (b : Nat) (v : Dword) : (s.setEnergy b v).resultCode = s.resultCode := rfl
@[simp] theorem State.setEnergy_resultSym (s : State) (b : Nat) (v : Dword) : (s.setEnergy b v).resultSym = s.resultSym := rfl
@[simp] theorem State.setEnergy_fftThresh (s : State) (b : Nat) (v : Dword) : (s.setEnergy b v).fftThresh = s.fftThresh := rfl
@[simp] theorem State.setEnergy_goeThresh (s : State) (b : Nat) (v : Dword) : (s.setEnergy b v).goeThresh = s.goeThresh := rfl
@[simp] theorem State.setEnergy_event (s : State) (b : Nat) (v : Dword) : (s.setEnergy b v).event = s.event := rfl
@[simp] theorem State.setEnergy_irqEn (s : State) (b : Nat) (v : Dword) : (s.setEnergy b v).irqEn = s.irqEn := rfl
@[simp] theorem State.setEnergy_cuA (s : State) (b : Nat) (v : Dword) : (s.setEnergy b v).cuA = s.cuA := rfl
@[simp] theorem State.setEnergy_cuB (s : State) (b : Nat) (v : Dword) : (s.setEnergy b v).cuB = s.cuB := rfl
@[simp] theorem State.setEnergy_cuR (s : State) (b : Nat) (v : Dword) : (s.setEnergy b v).cuR = s.cuR := rfl
@[simp] theorem State.setEnergy_cuS (s : State) (b : Nat) (v : Dword) : (s.setEnergy b v).cuS = s.cuS := rfl
@[simp] theorem State.setEnergy_cuM (s : State) (b : Nat) (v : Dword) : (s.setEnergy b v).cuM = s.cuM := rfl
@[simp] theorem State.setEnergy_mem (s : State) (b : Nat) (v : Dword) : (s.setEnergy b v).mem = s.mem := rfl
@[simp] theorem State.setEnergy_par (s : State) (b : Nat) (v : Dword) : (s.setEnergy b v).par = s.par := rfl
@[simp] theorem State.setEnergy_epoch (s : State) (b : Nat) (v : Dword) : (s.setEnergy b v).epoch = s.epoch := rfl
@[simp] theorem State.setEnergy_draws (s : State) (b : Nat) (v : Dword) : (s.setEnergy b v).draws = s.draws := rfl
@[simp] theorem State.setEnergy_agenda (s : State) (b : Nat) (v : Dword) : (s.setEnergy b v).agenda = s.agenda := rfl
@[simp] theorem State.setEnergy_resp (s : State) (b : Nat) (v : Dword) : (s.setEnergy b v).resp = s.resp := rfl

/-! ### `State.runFft` -/

@[simp] theorem State.runFft_calDone (s : State) : s.runFft.calDone = s.calDone := rfl
@[simp] theorem State.runFft_confirmPend (s : State) : s.runFft.confirmPend = s.confirmPend := rfl
@[simp] theorem State.runFft_prevV (s : State) : s.runFft.prevV = s.prevV := rfl
@[simp] theorem State.runFft_band (s : State) : s.runFft.band = s.band := rfl
@[simp] theorem State.runFft_straddle (s : State) : s.runFft.straddle = s.straddle := rfl
@[simp] theorem State.runFft_midpoint (s : State) : s.runFft.midpoint = s.midpoint := rfl
@[simp] theorem State.runFft_maxAmp (s : State) : s.runFft.maxAmp = s.maxAmp := rfl
@[simp] theorem State.runFft_halfAmp (s : State) : s.runFft.halfAmp = s.halfAmp := rfl
@[simp] theorem State.runFft_rawFs (s : State) : s.runFft.rawFs = s.rawFs := rfl
@[simp] theorem State.runFft_calSpan (s : State) : s.runFft.calSpan = s.calSpan := rfl
@[simp] theorem State.runFft_activeIdx (s : State) : s.runFft.activeIdx = s.activeIdx := rfl
@[simp] theorem State.runFft_fill (s : State) : s.runFft.fill = s.fill := rfl
@[simp] theorem State.runFft_readyIdx (s : State) : s.runFft.readyIdx = s.readyIdx := rfl
@[simp] theorem State.runFft_rdyS (s : State) : s.runFft.rdyS = s.rdyS := rfl
@[simp] theorem State.runFft_setPend (s : State) : s.runFft.setPend = s.setPend := rfl
@[simp] theorem State.runFft_clrPend (s : State) : s.runFft.clrPend = s.clrPend := rfl
@[simp] theorem State.runFft_rdyP (s : State) : s.runFft.rdyP = s.rdyP := rfl
@[simp] theorem State.runFft_ridxP (s : State) : s.runFft.ridxP = s.ridxP := rfl
@[simp] theorem State.runFft_auto (s : State) : s.runFft.auto = s.auto := rfl
@[simp] theorem State.runFft_alg (s : State) : s.runFft.alg = s.alg := rfl
@[simp] theorem State.runFft_job (s : State) : s.runFft.job = s.job := rfl
@[simp] theorem State.runFft_jobAlg (s : State) : s.runFft.jobAlg = s.jobAlg := rfl
@[simp] theorem State.runFft_jobFt (s : State) : s.runFft.jobFt = s.jobFt := rfl
@[simp] theorem State.runFft_jobGt (s : State) : s.runFft.jobGt = s.jobGt := rfl
@[simp] theorem State.runFft_jobFidx (s : State) : s.runFft.jobFidx = s.jobFidx := rfl
@[simp] theorem State.runFft_energy (s : State) : s.runFft.energy = s.energy := rfl
@[simp] theorem State.runFft_tone (s : State) : s.runFft.tone = s.tone := rfl
@[simp] theorem State.runFft_lastChar (s : State) : s.runFft.lastChar = s.lastChar := rfl
@[simp] theorem State.runFft_seqLen (s : State) : s.runFft.seqLen = s.seqLen := rfl
@[simp] theorem State.runFft_resultCode (s : State) : s.runFft.resultCode = s.resultCode := rfl
@[simp] theorem State.runFft_resultSym (s : State) : s.runFft.resultSym = s.resultSym := rfl
@[simp] theorem State.runFft_fftThresh (s : State) : s.runFft.fftThresh = s.fftThresh := rfl
@[simp] theorem State.runFft_goeThresh (s : State) : s.runFft.goeThresh = s.goeThresh := rfl
@[simp] theorem State.runFft_event (s : State) : s.runFft.event = s.event := rfl
@[simp] theorem State.runFft_irqEn (s : State) : s.runFft.irqEn = s.irqEn := rfl
@[simp] theorem State.runFft_cuA (s : State) : s.runFft.cuA = s.cuA := rfl
@[simp] theorem State.runFft_cuB (s : State) : s.runFft.cuB = s.cuB := rfl
@[simp] theorem State.runFft_cuR (s : State) : s.runFft.cuR = s.cuR := rfl
@[simp] theorem State.runFft_cuS (s : State) : s.runFft.cuS = s.cuS := rfl
@[simp] theorem State.runFft_cuM (s : State) : s.runFft.cuM = s.cuM := rfl
@[simp] theorem State.runFft_mem (s : State) : s.runFft.mem = (s.setSpectrum (fft (s.frameSamples s.jobFidx))).mem := rfl
@[simp] theorem State.runFft_par (s : State) : s.runFft.par = s.par := rfl
@[simp] theorem State.runFft_epoch (s : State) : s.runFft.epoch = s.epoch := rfl
@[simp] theorem State.runFft_draws (s : State) : s.runFft.draws = s.draws := rfl
@[simp] theorem State.runFft_agenda (s : State) : s.runFft.agenda = s.agenda := rfl
@[simp] theorem State.runFft_resp (s : State) : s.runFft.resp = s.resp := rfl

/-! ### `State.runGoertzel` -/

@[simp] theorem State.runGoertzel_calDone (s : State) : s.runGoertzel.calDone = s.calDone := rfl
@[simp] theorem State.runGoertzel_confirmPend (s : State) : s.runGoertzel.confirmPend = s.confirmPend := rfl
@[simp] theorem State.runGoertzel_prevV (s : State) : s.runGoertzel.prevV = s.prevV := rfl
@[simp] theorem State.runGoertzel_band (s : State) : s.runGoertzel.band = s.band := rfl
@[simp] theorem State.runGoertzel_straddle (s : State) : s.runGoertzel.straddle = s.straddle := rfl
@[simp] theorem State.runGoertzel_midpoint (s : State) : s.runGoertzel.midpoint = s.midpoint := rfl
@[simp] theorem State.runGoertzel_maxAmp (s : State) : s.runGoertzel.maxAmp = s.maxAmp := rfl
@[simp] theorem State.runGoertzel_halfAmp (s : State) : s.runGoertzel.halfAmp = s.halfAmp := rfl
@[simp] theorem State.runGoertzel_rawFs (s : State) : s.runGoertzel.rawFs = s.rawFs := rfl
@[simp] theorem State.runGoertzel_calSpan (s : State) : s.runGoertzel.calSpan = s.calSpan := rfl
@[simp] theorem State.runGoertzel_activeIdx (s : State) : s.runGoertzel.activeIdx = s.activeIdx := rfl
@[simp] theorem State.runGoertzel_fill (s : State) : s.runGoertzel.fill = s.fill := rfl
@[simp] theorem State.runGoertzel_readyIdx (s : State) : s.runGoertzel.readyIdx = s.readyIdx := rfl
@[simp] theorem State.runGoertzel_rdyS (s : State) : s.runGoertzel.rdyS = s.rdyS := rfl
@[simp] theorem State.runGoertzel_setPend (s : State) : s.runGoertzel.setPend = s.setPend := rfl
@[simp] theorem State.runGoertzel_clrPend (s : State) : s.runGoertzel.clrPend = s.clrPend := rfl
@[simp] theorem State.runGoertzel_rdyP (s : State) : s.runGoertzel.rdyP = s.rdyP := rfl
@[simp] theorem State.runGoertzel_ridxP (s : State) : s.runGoertzel.ridxP = s.ridxP := rfl
@[simp] theorem State.runGoertzel_auto (s : State) : s.runGoertzel.auto = s.auto := rfl
@[simp] theorem State.runGoertzel_alg (s : State) : s.runGoertzel.alg = s.alg := rfl
@[simp] theorem State.runGoertzel_job (s : State) : s.runGoertzel.job = s.job := rfl
@[simp] theorem State.runGoertzel_jobAlg (s : State) : s.runGoertzel.jobAlg = s.jobAlg := rfl
@[simp] theorem State.runGoertzel_jobFt (s : State) : s.runGoertzel.jobFt = s.jobFt := rfl
@[simp] theorem State.runGoertzel_jobGt (s : State) : s.runGoertzel.jobGt = s.jobGt := rfl
@[simp] theorem State.runGoertzel_jobFidx (s : State) : s.runGoertzel.jobFidx = s.jobFidx := rfl
@[simp] theorem State.runGoertzel_energy (s : State) : s.runGoertzel.energy = s.bankEnergies := rfl
@[simp] theorem State.runGoertzel_tone (s : State) : s.runGoertzel.tone = s.tone := rfl
@[simp] theorem State.runGoertzel_lastChar (s : State) : s.runGoertzel.lastChar = s.lastChar := rfl
@[simp] theorem State.runGoertzel_seqLen (s : State) : s.runGoertzel.seqLen = s.seqLen := rfl
@[simp] theorem State.runGoertzel_resultCode (s : State) : s.runGoertzel.resultCode = s.resultCode := rfl
@[simp] theorem State.runGoertzel_resultSym (s : State) : s.runGoertzel.resultSym = s.resultSym := rfl
@[simp] theorem State.runGoertzel_fftThresh (s : State) : s.runGoertzel.fftThresh = s.fftThresh := rfl
@[simp] theorem State.runGoertzel_goeThresh (s : State) : s.runGoertzel.goeThresh = s.goeThresh := rfl
@[simp] theorem State.runGoertzel_event (s : State) : s.runGoertzel.event = s.event := rfl
@[simp] theorem State.runGoertzel_irqEn (s : State) : s.runGoertzel.irqEn = s.irqEn := rfl
@[simp] theorem State.runGoertzel_cuA (s : State) : s.runGoertzel.cuA = s.cuA := rfl
@[simp] theorem State.runGoertzel_cuB (s : State) : s.runGoertzel.cuB = s.cuB := rfl
@[simp] theorem State.runGoertzel_cuR (s : State) : s.runGoertzel.cuR = s.cuR := rfl
@[simp] theorem State.runGoertzel_cuS (s : State) : s.runGoertzel.cuS = s.cuS := rfl
@[simp] theorem State.runGoertzel_cuM (s : State) : s.runGoertzel.cuM = s.cuM := rfl
@[simp] theorem State.runGoertzel_mem (s : State) : s.runGoertzel.mem = s.mem := rfl
@[simp] theorem State.runGoertzel_par (s : State) : s.runGoertzel.par = s.par := rfl
@[simp] theorem State.runGoertzel_epoch (s : State) : s.runGoertzel.epoch = s.epoch := rfl
@[simp] theorem State.runGoertzel_draws (s : State) : s.runGoertzel.draws = s.draws := rfl
@[simp] theorem State.runGoertzel_agenda (s : State) : s.runGoertzel.agenda = s.agenda := rfl
@[simp] theorem State.runGoertzel_resp (s : State) : s.runGoertzel.resp = s.resp := rfl

/-! ### `State.runFdet` -/

@[simp] theorem State.runFdet_calDone (s : State) : s.runFdet.calDone = s.calDone := by simp only [State.runFdet]
@[simp] theorem State.runFdet_confirmPend (s : State) : s.runFdet.confirmPend = s.confirmPend := by simp only [State.runFdet]
@[simp] theorem State.runFdet_prevV (s : State) : s.runFdet.prevV = s.prevV := by simp only [State.runFdet]
@[simp] theorem State.runFdet_band (s : State) : s.runFdet.band = s.band := by simp only [State.runFdet]
@[simp] theorem State.runFdet_straddle (s : State) : s.runFdet.straddle = s.straddle := by simp only [State.runFdet]
@[simp] theorem State.runFdet_midpoint (s : State) : s.runFdet.midpoint = s.midpoint := by simp only [State.runFdet]
@[simp] theorem State.runFdet_maxAmp (s : State) : s.runFdet.maxAmp = s.maxAmp := by simp only [State.runFdet]
@[simp] theorem State.runFdet_halfAmp (s : State) : s.runFdet.halfAmp = s.halfAmp := by simp only [State.runFdet]
@[simp] theorem State.runFdet_rawFs (s : State) : s.runFdet.rawFs = s.rawFs := by simp only [State.runFdet]
@[simp] theorem State.runFdet_calSpan (s : State) : s.runFdet.calSpan = s.calSpan := by simp only [State.runFdet]
@[simp] theorem State.runFdet_activeIdx (s : State) : s.runFdet.activeIdx = s.activeIdx := by simp only [State.runFdet]
@[simp] theorem State.runFdet_fill (s : State) : s.runFdet.fill = s.fill := by simp only [State.runFdet]
@[simp] theorem State.runFdet_readyIdx (s : State) : s.runFdet.readyIdx = s.readyIdx := by simp only [State.runFdet]
@[simp] theorem State.runFdet_rdyS (s : State) : s.runFdet.rdyS = s.rdyS := by simp only [State.runFdet]
@[simp] theorem State.runFdet_setPend (s : State) : s.runFdet.setPend = s.setPend := by simp only [State.runFdet]
@[simp] theorem State.runFdet_clrPend (s : State) : s.runFdet.clrPend = s.clrPend := by simp only [State.runFdet]
@[simp] theorem State.runFdet_rdyP (s : State) : s.runFdet.rdyP = s.rdyP := by simp only [State.runFdet]
@[simp] theorem State.runFdet_ridxP (s : State) : s.runFdet.ridxP = s.ridxP := by simp only [State.runFdet]
@[simp] theorem State.runFdet_auto (s : State) : s.runFdet.auto = s.auto := by simp only [State.runFdet]
@[simp] theorem State.runFdet_alg (s : State) : s.runFdet.alg = s.alg := by simp only [State.runFdet]
@[simp] theorem State.runFdet_job (s : State) : s.runFdet.job = s.job := by simp only [State.runFdet]
@[simp] theorem State.runFdet_jobAlg (s : State) : s.runFdet.jobAlg = s.jobAlg := by simp only [State.runFdet]
@[simp] theorem State.runFdet_jobFt (s : State) : s.runFdet.jobFt = s.jobFt := by simp only [State.runFdet]
@[simp] theorem State.runFdet_jobGt (s : State) : s.runFdet.jobGt = s.jobGt := by simp only [State.runFdet]
@[simp] theorem State.runFdet_jobFidx (s : State) : s.runFdet.jobFidx = s.jobFidx := by simp only [State.runFdet]
@[simp] theorem State.runFdet_energy (s : State) : s.runFdet.energy = s.energy := by simp only [State.runFdet]
@[simp] theorem State.runFdet_tone (s : State) : s.runFdet.tone = s.fdetPair := by simp only [State.runFdet]
@[simp] theorem State.runFdet_lastChar (s : State) : s.runFdet.lastChar = s.lastChar := by simp only [State.runFdet]
@[simp] theorem State.runFdet_seqLen (s : State) : s.runFdet.seqLen = s.seqLen := by simp only [State.runFdet]
@[simp] theorem State.runFdet_resultCode (s : State) : s.runFdet.resultCode = s.resultCode := by simp only [State.runFdet]
@[simp] theorem State.runFdet_resultSym (s : State) : s.runFdet.resultSym = s.resultSym := by simp only [State.runFdet]
@[simp] theorem State.runFdet_fftThresh (s : State) : s.runFdet.fftThresh = s.fftThresh := by simp only [State.runFdet]
@[simp] theorem State.runFdet_goeThresh (s : State) : s.runFdet.goeThresh = s.goeThresh := by simp only [State.runFdet]
@[simp] theorem State.runFdet_event (s : State) : s.runFdet.event = s.event := by simp only [State.runFdet]
@[simp] theorem State.runFdet_irqEn (s : State) : s.runFdet.irqEn = s.irqEn := by simp only [State.runFdet]
@[simp] theorem State.runFdet_cuA (s : State) : s.runFdet.cuA = s.cuA := by simp only [State.runFdet]
@[simp] theorem State.runFdet_cuB (s : State) : s.runFdet.cuB = s.cuB := by simp only [State.runFdet]
@[simp] theorem State.runFdet_cuR (s : State) : s.runFdet.cuR = s.cuR := by simp only [State.runFdet]
@[simp] theorem State.runFdet_cuS (s : State) : s.runFdet.cuS = s.cuS := by simp only [State.runFdet]
@[simp] theorem State.runFdet_cuM (s : State) : s.runFdet.cuM = s.cuM := by simp only [State.runFdet]
@[simp] theorem State.runFdet_mem (s : State) : s.runFdet.mem = s.mem := by simp only [State.runFdet]
@[simp] theorem State.runFdet_par (s : State) : s.runFdet.par = s.par := by simp only [State.runFdet]
@[simp] theorem State.runFdet_epoch (s : State) : s.runFdet.epoch = s.epoch := by simp only [State.runFdet]
@[simp] theorem State.runFdet_draws (s : State) : s.runFdet.draws = s.draws := by simp only [State.runFdet]
@[simp] theorem State.runFdet_agenda (s : State) : s.runFdet.agenda = s.agenda := by simp only [State.runFdet]
@[simp] theorem State.runFdet_resp (s : State) : s.runFdet.resp = s.resp := by simp only [State.runFdet]

/-! ### `State.runGdet` -/

@[simp] theorem State.runGdet_calDone (s : State) : s.runGdet.calDone = s.calDone := rfl
@[simp] theorem State.runGdet_confirmPend (s : State) : s.runGdet.confirmPend = s.confirmPend := rfl
@[simp] theorem State.runGdet_prevV (s : State) : s.runGdet.prevV = s.prevV := rfl
@[simp] theorem State.runGdet_band (s : State) : s.runGdet.band = s.band := rfl
@[simp] theorem State.runGdet_straddle (s : State) : s.runGdet.straddle = s.straddle := rfl
@[simp] theorem State.runGdet_midpoint (s : State) : s.runGdet.midpoint = s.midpoint := rfl
@[simp] theorem State.runGdet_maxAmp (s : State) : s.runGdet.maxAmp = s.maxAmp := rfl
@[simp] theorem State.runGdet_halfAmp (s : State) : s.runGdet.halfAmp = s.halfAmp := rfl
@[simp] theorem State.runGdet_rawFs (s : State) : s.runGdet.rawFs = s.rawFs := rfl
@[simp] theorem State.runGdet_calSpan (s : State) : s.runGdet.calSpan = s.calSpan := rfl
@[simp] theorem State.runGdet_activeIdx (s : State) : s.runGdet.activeIdx = s.activeIdx := rfl
@[simp] theorem State.runGdet_fill (s : State) : s.runGdet.fill = s.fill := rfl
@[simp] theorem State.runGdet_readyIdx (s : State) : s.runGdet.readyIdx = s.readyIdx := rfl
@[simp] theorem State.runGdet_rdyS (s : State) : s.runGdet.rdyS = s.rdyS := rfl
@[simp] theorem State.runGdet_setPend (s : State) : s.runGdet.setPend = s.setPend := rfl
@[simp] theorem State.runGdet_clrPend (s : State) : s.runGdet.clrPend = s.clrPend := rfl
@[simp] theorem State.runGdet_rdyP (s : State) : s.runGdet.rdyP = s.rdyP := rfl
@[simp] theorem State.runGdet_ridxP (s : State) : s.runGdet.ridxP = s.ridxP := rfl
@[simp] theorem State.runGdet_auto (s : State) : s.runGdet.auto = s.auto := rfl
@[simp] theorem State.runGdet_alg (s : State) : s.runGdet.alg = s.alg := rfl
@[simp] theorem State.runGdet_job (s : State) : s.runGdet.job = s.job := rfl
@[simp] theorem State.runGdet_jobAlg (s : State) : s.runGdet.jobAlg = s.jobAlg := rfl
@[simp] theorem State.runGdet_jobFt (s : State) : s.runGdet.jobFt = s.jobFt := rfl
@[simp] theorem State.runGdet_jobGt (s : State) : s.runGdet.jobGt = s.jobGt := rfl
@[simp] theorem State.runGdet_jobFidx (s : State) : s.runGdet.jobFidx = s.jobFidx := rfl
@[simp] theorem State.runGdet_energy (s : State) : s.runGdet.energy = s.energy := rfl
@[simp] theorem State.runGdet_tone (s : State) : s.runGdet.tone = s.gdetTone := rfl
@[simp] theorem State.runGdet_lastChar (s : State) : s.runGdet.lastChar = s.lastChar := rfl
@[simp] theorem State.runGdet_seqLen (s : State) : s.runGdet.seqLen = s.seqLen := rfl
@[simp] theorem State.runGdet_resultCode (s : State) : s.runGdet.resultCode = s.resultCode := rfl
@[simp] theorem State.runGdet_resultSym (s : State) : s.runGdet.resultSym = s.resultSym := rfl
@[simp] theorem State.runGdet_fftThresh (s : State) : s.runGdet.fftThresh = s.fftThresh := rfl
@[simp] theorem State.runGdet_goeThresh (s : State) : s.runGdet.goeThresh = s.goeThresh := rfl
@[simp] theorem State.runGdet_event (s : State) : s.runGdet.event = s.event := rfl
@[simp] theorem State.runGdet_irqEn (s : State) : s.runGdet.irqEn = s.irqEn := rfl
@[simp] theorem State.runGdet_cuA (s : State) : s.runGdet.cuA = s.cuA := rfl
@[simp] theorem State.runGdet_cuB (s : State) : s.runGdet.cuB = s.cuB := rfl
@[simp] theorem State.runGdet_cuR (s : State) : s.runGdet.cuR = s.cuR := rfl
@[simp] theorem State.runGdet_cuS (s : State) : s.runGdet.cuS = s.cuS := rfl
@[simp] theorem State.runGdet_cuM (s : State) : s.runGdet.cuM = s.cuM := rfl
@[simp] theorem State.runGdet_mem (s : State) : s.runGdet.mem = s.mem := rfl
@[simp] theorem State.runGdet_par (s : State) : s.runGdet.par = s.par := rfl
@[simp] theorem State.runGdet_epoch (s : State) : s.runGdet.epoch = s.epoch := rfl
@[simp] theorem State.runGdet_draws (s : State) : s.runGdet.draws = s.draws := rfl
@[simp] theorem State.runGdet_agenda (s : State) : s.runGdet.agenda = s.agenda := rfl
@[simp] theorem State.runGdet_resp (s : State) : s.runGdet.resp = s.resp := rfl

/-! ### `State.deliverSet` -/

@[simp] theorem State.deliverSet_calDone (s : State) : s.deliverSet.calDone = s.calDone := rfl
@[simp] theorem State.deliverSet_confirmPend (s : State) : s.deliverSet.confirmPend = s.confirmPend := rfl
@[simp] theorem State.deliverSet_prevV (s : State) : s.deliverSet.prevV = s.prevV := rfl
@[simp] theorem State.deliverSet_band (s : State) : s.deliverSet.band = s.band := rfl
@[simp] theorem State.deliverSet_straddle (s : State) : s.deliverSet.straddle = s.straddle := rfl
@[simp] theorem State.deliverSet_midpoint (s : State) : s.deliverSet.midpoint = s.midpoint := rfl
@[simp] theorem State.deliverSet_maxAmp (s : State) : s.deliverSet.maxAmp = s.maxAmp := rfl
@[simp] theorem State.deliverSet_halfAmp (s : State) : s.deliverSet.halfAmp = s.halfAmp := rfl
@[simp] theorem State.deliverSet_rawFs (s : State) : s.deliverSet.rawFs = s.rawFs := rfl
@[simp] theorem State.deliverSet_calSpan (s : State) : s.deliverSet.calSpan = s.calSpan := rfl
@[simp] theorem State.deliverSet_activeIdx (s : State) : s.deliverSet.activeIdx = s.activeIdx := rfl
@[simp] theorem State.deliverSet_fill (s : State) : s.deliverSet.fill = s.fill := rfl
@[simp] theorem State.deliverSet_readyIdx (s : State) : s.deliverSet.readyIdx = s.readyIdx := rfl
@[simp] theorem State.deliverSet_rdyS (s : State) : s.deliverSet.rdyS = s.rdyS := rfl
@[simp] theorem State.deliverSet_setPend (s : State) : s.deliverSet.setPend = false := rfl
@[simp] theorem State.deliverSet_clrPend (s : State) : s.deliverSet.clrPend = s.clrPend := rfl
@[simp] theorem State.deliverSet_rdyP (s : State) : s.deliverSet.rdyP = true := rfl
@[simp] theorem State.deliverSet_ridxP (s : State) : s.deliverSet.ridxP = s.readyIdx := rfl
@[simp] theorem State.deliverSet_auto (s : State) : s.deliverSet.auto = s.auto := rfl
@[simp] theorem State.deliverSet_alg (s : State) : s.deliverSet.alg = s.alg := rfl
@[simp] theorem State.deliverSet_job (s : State) : s.deliverSet.job = s.job := rfl
@[simp] theorem State.deliverSet_jobAlg (s : State) : s.deliverSet.jobAlg = s.jobAlg := rfl
@[simp] theorem State.deliverSet_jobFt (s : State) : s.deliverSet.jobFt = s.jobFt := rfl
@[simp] theorem State.deliverSet_jobGt (s : State) : s.deliverSet.jobGt = s.jobGt := rfl
@[simp] theorem State.deliverSet_jobFidx (s : State) : s.deliverSet.jobFidx = s.jobFidx := rfl
@[simp] theorem State.deliverSet_energy (s : State) : s.deliverSet.energy = s.energy := rfl
@[simp] theorem State.deliverSet_tone (s : State) : s.deliverSet.tone = s.tone := rfl
@[simp] theorem State.deliverSet_lastChar (s : State) : s.deliverSet.lastChar = s.lastChar := rfl
@[simp] theorem State.deliverSet_seqLen (s : State) : s.deliverSet.seqLen = s.seqLen := rfl
@[simp] theorem State.deliverSet_resultCode (s : State) : s.deliverSet.resultCode = s.resultCode := rfl
@[simp] theorem State.deliverSet_resultSym (s : State) : s.deliverSet.resultSym = s.resultSym := rfl
@[simp] theorem State.deliverSet_fftThresh (s : State) : s.deliverSet.fftThresh = s.fftThresh := rfl
@[simp] theorem State.deliverSet_goeThresh (s : State) : s.deliverSet.goeThresh = s.goeThresh := rfl
@[simp] theorem State.deliverSet_event (s : State) : s.deliverSet.event = s.event := rfl
@[simp] theorem State.deliverSet_irqEn (s : State) : s.deliverSet.irqEn = s.irqEn := rfl
@[simp] theorem State.deliverSet_cuA (s : State) : s.deliverSet.cuA = s.cuA := rfl
@[simp] theorem State.deliverSet_cuB (s : State) : s.deliverSet.cuB = s.cuB := rfl
@[simp] theorem State.deliverSet_cuR (s : State) : s.deliverSet.cuR = s.cuR := rfl
@[simp] theorem State.deliverSet_cuS (s : State) : s.deliverSet.cuS = s.cuS := rfl
@[simp] theorem State.deliverSet_cuM (s : State) : s.deliverSet.cuM = s.cuM := rfl
@[simp] theorem State.deliverSet_mem (s : State) : s.deliverSet.mem = s.mem := rfl
@[simp] theorem State.deliverSet_par (s : State) : s.deliverSet.par = s.par := rfl
@[simp] theorem State.deliverSet_epoch (s : State) : s.deliverSet.epoch = s.epoch := rfl
@[simp] theorem State.deliverSet_draws (s : State) : s.deliverSet.draws = s.draws := rfl
@[simp] theorem State.deliverSet_agenda (s : State) : s.deliverSet.agenda = s.agenda := rfl
@[simp] theorem State.deliverSet_resp (s : State) : s.deliverSet.resp = s.resp := rfl

/-! ### `State.deliverClr` -/

@[simp] theorem State.deliverClr_calDone (s : State) : s.deliverClr.calDone = s.calDone := rfl
@[simp] theorem State.deliverClr_confirmPend (s : State) : s.deliverClr.confirmPend = s.confirmPend := rfl
@[simp] theorem State.deliverClr_prevV (s : State) : s.deliverClr.prevV = s.prevV := rfl
@[simp] theorem State.deliverClr_band (s : State) : s.deliverClr.band = s.band := rfl
@[simp] theorem State.deliverClr_straddle (s : State) : s.deliverClr.straddle = s.straddle := rfl
@[simp] theorem State.deliverClr_midpoint (s : State) : s.deliverClr.midpoint = s.midpoint := rfl
@[simp] theorem State.deliverClr_maxAmp (s : State) : s.deliverClr.maxAmp = s.maxAmp := rfl
@[simp] theorem State.deliverClr_halfAmp (s : State) : s.deliverClr.halfAmp = s.halfAmp := rfl
@[simp] theorem State.deliverClr_rawFs (s : State) : s.deliverClr.rawFs = s.rawFs := rfl
@[simp] theorem State.deliverClr_calSpan (s : State) : s.deliverClr.calSpan = s.calSpan := rfl
@[simp] theorem State.deliverClr_activeIdx (s : State) : s.deliverClr.activeIdx = s.activeIdx := rfl
@[simp] theorem State.deliverClr_fill (s : State) : s.deliverClr.fill = s.fill := rfl
@[simp] theorem State.deliverClr_readyIdx (s : State) : s.deliverClr.readyIdx = s.readyIdx := rfl
@[simp] theorem State.deliverClr_rdyS (s : State) : s.deliverClr.rdyS = false := rfl
@[simp] theorem State.deliverClr_setPend (s : State) : s.deliverClr.setPend = s.setPend := rfl
@[simp] theorem State.deliverClr_clrPend (s : State) : s.deliverClr.clrPend = false := rfl
@[simp] theorem State.deliverClr_rdyP (s : State) : s.deliverClr.rdyP = s.rdyP := rfl
@[simp] theorem State.deliverClr_ridxP (s : State) : s.deliverClr.ridxP = s.ridxP := rfl
@[simp] theorem State.deliverClr_auto (s : State) : s.deliverClr.auto = s.auto := rfl
@[simp] theorem State.deliverClr_alg (s : State) : s.deliverClr.alg = s.alg := rfl
@[simp] theorem State.deliverClr_job (s : State) : s.deliverClr.job = s.job := rfl
@[simp] theorem State.deliverClr_jobAlg (s : State) : s.deliverClr.jobAlg = s.jobAlg := rfl
@[simp] theorem State.deliverClr_jobFt (s : State) : s.deliverClr.jobFt = s.jobFt := rfl
@[simp] theorem State.deliverClr_jobGt (s : State) : s.deliverClr.jobGt = s.jobGt := rfl
@[simp] theorem State.deliverClr_jobFidx (s : State) : s.deliverClr.jobFidx = s.jobFidx := rfl
@[simp] theorem State.deliverClr_energy (s : State) : s.deliverClr.energy = s.energy := rfl
@[simp] theorem State.deliverClr_tone (s : State) : s.deliverClr.tone = s.tone := rfl
@[simp] theorem State.deliverClr_lastChar (s : State) : s.deliverClr.lastChar = s.lastChar := rfl
@[simp] theorem State.deliverClr_seqLen (s : State) : s.deliverClr.seqLen = s.seqLen := rfl
@[simp] theorem State.deliverClr_resultCode (s : State) : s.deliverClr.resultCode = s.resultCode := rfl
@[simp] theorem State.deliverClr_resultSym (s : State) : s.deliverClr.resultSym = s.resultSym := rfl
@[simp] theorem State.deliverClr_fftThresh (s : State) : s.deliverClr.fftThresh = s.fftThresh := rfl
@[simp] theorem State.deliverClr_goeThresh (s : State) : s.deliverClr.goeThresh = s.goeThresh := rfl
@[simp] theorem State.deliverClr_event (s : State) : s.deliverClr.event = s.event := rfl
@[simp] theorem State.deliverClr_irqEn (s : State) : s.deliverClr.irqEn = s.irqEn := rfl
@[simp] theorem State.deliverClr_cuA (s : State) : s.deliverClr.cuA = s.cuA := rfl
@[simp] theorem State.deliverClr_cuB (s : State) : s.deliverClr.cuB = s.cuB := rfl
@[simp] theorem State.deliverClr_cuR (s : State) : s.deliverClr.cuR = s.cuR := rfl
@[simp] theorem State.deliverClr_cuS (s : State) : s.deliverClr.cuS = s.cuS := rfl
@[simp] theorem State.deliverClr_cuM (s : State) : s.deliverClr.cuM = s.cuM := rfl
@[simp] theorem State.deliverClr_mem (s : State) : s.deliverClr.mem = s.mem := rfl
@[simp] theorem State.deliverClr_par (s : State) : s.deliverClr.par = s.par := rfl
@[simp] theorem State.deliverClr_epoch (s : State) : s.deliverClr.epoch = s.epoch := rfl
@[simp] theorem State.deliverClr_draws (s : State) : s.deliverClr.draws = s.draws := rfl
@[simp] theorem State.deliverClr_agenda (s : State) : s.deliverClr.agenda = s.agenda := rfl
@[simp] theorem State.deliverClr_resp (s : State) : s.deliverClr.resp = s.resp := rfl

end Sys2Proof.Machine
end

