-- ==== Sys2Proof/Laws/Memory.lean ====
section
/-! SUPPORT. The laws of the RAMs: a write is read back, leaves every other byte alone, and keeps the canonical form. -/

namespace Sys2Proof.Machine

/-! ### What a read finds -/

theorem Memory.read?_append (m n : Memory) (x : Nat) :
    Memory.read? (m ++ n) x = (Memory.read? m x).or (Memory.read? n x) := by
  induction m with
  | nil => rfl
  | cons c m ih =>
    simp only [List.cons_append, Memory.read?]
    split
    · rfl
    · exact ih

theorem Memory.read?_filter (m : Memory) (p : Nat → Bool) (x : Nat) :
    Memory.read? (m.filter fun c => p c.1) x = if p x then Memory.read? m x else none := by
  induction m with
  | nil => simp [Memory.read?]
  | cons c m ih =>
    by_cases hc : c.1 = x
    · cases hp : p x <;> simp_all [Memory.read?]
    · cases hp : p c.1 <;> simp_all [Memory.read?]

theorem Memory.read?_cellsAt (a : Nat) (bs : List Byte) (x : Nat) :
    Memory.read? (Memory.cellsAt a bs) x = if a ≤ x then bs[x - a]? else none := by
  induction bs generalizing a with
  | nil => simp [Memory.cellsAt, Memory.read?]
  | cons b bs ih =>
    simp only [Memory.cellsAt, Memory.read?, ih]
    by_cases h : a = x
    · subst h; simp
    · by_cases hle : a ≤ x
      · obtain ⟨k, rfl⟩ : ∃ k, x = a + 1 + k := ⟨x - (a + 1), by omega⟩
        have h1 : a + 1 + k - a = (a + 1 + k - (a + 1)) + 1 := by omega
        rw [if_neg h, if_pos (by omega), if_pos hle, h1, List.getElem?_cons_succ]
      · rw [if_neg h, if_neg (by omega), if_neg hle]

/-- The one law of a write: inside the written bytes the new byte is found, outside what was found before. -/
theorem Memory.read?_write (m : Memory) (a : Nat) (bs : List Byte) (x : Nat) :
    Memory.read? (Memory.write m a bs) x
      = if a ≤ x ∧ x < a + bs.length then bs[x - a]? else Memory.read? m x := by
  unfold Memory.write
  rw [Memory.read?_append, Memory.read?_append, Memory.read?_cellsAt,
    Memory.read?_filter m (fun k => decide (k < a)) x,
    Memory.read?_filter m (fun k => decide (a + bs.length ≤ k)) x]
  by_cases h1 : x < a
  · have h2 : ¬ a + bs.length ≤ x := by omega
    have h3 : ¬ a ≤ x := by omega
    simp [h1, h2, h3]
  · by_cases h2 : x < a + bs.length
    · have h3 : a ≤ x := by omega
      have h4 : ¬ a + bs.length ≤ x := by omega
      simp [h1, h2, h3, h4]
    · have h3 : a ≤ x := by omega
      have h4 : a + bs.length ≤ x := by omega
      have h5 : bs[x - a]? = none := List.getElem?_eq_none (by omega)
      simp [h1, h2, h3, h4, h5]

/-! ### The canonical form -/

theorem Memory.wfFrom_mono {lo lo' : Nat} (h : lo' ≤ lo) {m : Memory} (hm : Memory.wfFrom lo m = true) :
    Memory.wfFrom lo' m = true := by
  cases m with
  | nil => rfl
  | cons c m =>
    simp only [Memory.wfFrom, Bool.and_eq_true, decide_eq_true_eq] at hm ⊢
    exact ⟨⟨by omega, hm.1.2⟩, hm.2⟩

/-- Two lists of cells, the second starting above the first, are canonical together. -/
theorem Memory.wfFrom_append {lo mid : Nat} {m n : Memory} (hm : Memory.wfFrom lo m = true)
    (hn : Memory.wfFrom mid n = true) (hlt : ∀ c ∈ m, c.1 < mid) (hle : lo ≤ mid) :
    Memory.wfFrom lo (m ++ n) = true := by
  induction m generalizing lo with
  | nil => exact Memory.wfFrom_mono hle hn
  | cons c m ih =>
    simp only [List.cons_append, Memory.wfFrom, Bool.and_eq_true, decide_eq_true_eq] at hm ⊢
    refine ⟨hm.1, ih hm.2 (fun d hd => hlt d (List.mem_cons_of_mem _ hd)) ?_⟩
    have := hlt c List.mem_cons_self
    omega

theorem Memory.wfFrom_filter {lo : Nat} (p : Nat → Bool) {m : Memory} (hm : Memory.wfFrom lo m = true) :
    Memory.wfFrom lo (m.filter fun c => p c.1) = true := by
  induction m generalizing lo with
  | nil => rfl
  | cons c m ih =>
    simp only [Memory.wfFrom, Bool.and_eq_true, decide_eq_true_eq] at hm
    cases hp : p c.1 with
    | false =>
      rw [List.filter_cons_of_neg (by simp [hp])]
      exact Memory.wfFrom_mono (by omega) (ih hm.2)
    | true =>
      rw [List.filter_cons_of_pos (by simp [hp])]
      simp only [Memory.wfFrom, Bool.and_eq_true, decide_eq_true_eq]
      exact ⟨hm.1, ih hm.2⟩

theorem Memory.wfFrom_filter_ge {lo mid : Nat} {m : Memory} (hm : Memory.wfFrom lo m = true) :
    Memory.wfFrom mid (m.filter fun c => decide (mid ≤ c.1)) = true := by
  induction m generalizing lo with
  | nil => rfl
  | cons c m ih =>
    simp only [Memory.wfFrom, Bool.and_eq_true, decide_eq_true_eq] at hm
    by_cases hp : mid ≤ c.1
    · rw [List.filter_cons_of_pos (by simp [hp])]
      simp only [Memory.wfFrom, Bool.and_eq_true, decide_eq_true_eq]
      exact ⟨⟨hp, hm.1.2⟩, Memory.wfFrom_filter (fun k => decide (mid ≤ k)) hm.2⟩
    · rw [List.filter_cons_of_neg (by simp [hp])]
      exact ih hm.2

theorem Memory.wfFrom_cellsAt (a : Nat) (bs : List Byte)
    (hram : ∀ x, a ≤ x → x < a + bs.length → ramAddress x = true) :
    Memory.wfFrom a (Memory.cellsAt a bs) = true := by
  induction bs generalizing a with
  | nil => rfl
  | cons b bs ih =>
    simp only [Memory.cellsAt, Memory.wfFrom, Bool.and_eq_true, decide_eq_true_eq]
    simp only [List.length_cons] at hram
    exact ⟨⟨Nat.le_refl a, hram a (by omega) (by omega)⟩, ih (a + 1) fun x h1 h2 => hram x (by omega) (by omega)⟩

theorem Memory.cellsAt_lt {a : Nat} {bs : List Byte} : ∀ c ∈ Memory.cellsAt a bs, c.1 < a + bs.length := by
  induction bs generalizing a with
  | nil => intro c hc; cases hc
  | cons b bs ih =>
    intro c hc
    rcases List.mem_cons.mp hc with rfl | hc
    · simp
    · have := ih c hc
      simp only [List.length_cons]
      omega

/-- A write of bytes of RAM keeps the canonical form. -/
theorem Memory.wf_write {m : Memory} (hm : Memory.wf m = true) (a : Nat) (bs : List Byte)
    (hram : ∀ x, a ≤ x → x < a + bs.length → ramAddress x = true) : Memory.wf (Memory.write m a bs) = true := by
  unfold Memory.wf Memory.write at *
  have hlow := Memory.wfFrom_filter (fun k => decide (k < a)) hm
  have hlow_lt : ∀ c ∈ m.filter (fun c => decide (c.1 < a)), c.1 < a := fun c hc => by
    simpa using (List.mem_filter.mp hc).2
  have hmid := Memory.wfFrom_append hlow (Memory.wfFrom_cellsAt a bs hram) hlow_lt (Nat.zero_le a)
  refine Memory.wfFrom_append hmid (Memory.wfFrom_filter_ge hm) (fun c hc => ?_) (Nat.zero_le _)
  rcases List.mem_append.mp hc with hc | hc
  · exact Nat.lt_of_lt_of_le (hlow_lt c hc) (Nat.le_add_right _ _)
  · exact Memory.cellsAt_lt c hc

/-! ### Bytes, samples, bins and characters of a state -/

/-- A byte inside the written range reads as the byte written there. -/
theorem State.readByte_writeBytes_inside (s : State) {a x : Nat} {bs : List Byte} {b : Byte}
    (hle : a ≤ x) (hb : bs[x - a]? = some b) : (s.writeBytes a bs).readByte x = b := by
  have hlt : x < a + bs.length := by
    have := (List.getElem?_eq_some_iff.mp hb).1
    omega
  simp only [State.readByte, State.writeBytes_mem, State.writeBytes_epoch, Memory.read?_write]
  rw [if_pos ⟨hle, hlt⟩, hb]

/-- A byte outside the written range reads as before. -/
theorem State.readByte_writeBytes_outside (s : State) {a x : Nat} {bs : List Byte}
    (h : x < a ∨ a + bs.length ≤ x) : (s.writeBytes a bs).readByte x = s.readByte x := by
  simp only [State.readByte, State.writeBytes_mem, State.writeBytes_epoch, Memory.read?_write]
  rw [if_neg (by omega)]

/-- Reading depends only on the memory and on which reset it has come from. -/
theorem State.readByte_congr {s t : State} (hm : t.mem = s.mem) (he : t.epoch = s.epoch) (a : Nat) :
    t.readByte a = s.readByte a := by
  simp only [State.readByte, hm, he]

theorem State.sample_congr {s t : State} (hm : t.mem = s.mem) (he : t.epoch = s.epoch) (f : FrameIx) (n : Nat) :
    t.sample f n = s.sample f n := by
  simp only [State.sample, State.readHalf, State.readByte_congr hm he]

theorem State.specBin_congr {s t : State} (hm : t.mem = s.mem) (he : t.epoch = s.epoch) (k : Nat) :
    t.specBin k = s.specBin k := by
  simp only [State.specBin, State.readWord, State.readByte_congr hm he]

theorem State.seqChar_congr {s t : State} (hm : t.mem = s.mem) (he : t.epoch = s.epoch) (i : Nat) :
    t.seqChar i = s.seqChar i := by
  simp only [State.seqChar, State.readByte_congr hm he]

theorem State.frameSamples_congr {s t : State} (hm : t.mem = s.mem) (he : t.epoch = s.epoch) (f : FrameIx) :
    t.frameSamples f = s.frameSamples f := by
  simp only [State.frameSamples, State.sample_congr hm he]

/-- The two bytes of a pattern make the pattern. -/
theorem halfBytes_join (v : Half) : (v.extractLsb' 8 8 ++ v.extractLsb' 0 8 : BitVec 16) = v := by
  apply BitVec.eq_of_getLsbD_eq
  intro i hi
  simp only [BitVec.getLsbD_append, BitVec.getLsbD_extractLsb']
  by_cases h : i < 8
  · simp [h]
  · have : i - 8 < 8 := by omega
    simp [h, this, show 8 + (i - 8) = i by omega]

/-- The four bytes of a word make the word. -/
theorem wordBytes_join (v : Word) :
    (v.extractLsb' 24 8 ++ v.extractLsb' 16 8 ++ v.extractLsb' 8 8 ++ v.extractLsb' 0 8 : BitVec 32) = v := by
  apply BitVec.eq_of_getLsbD_eq
  intro i hi
  simp only [BitVec.getLsbD_append, BitVec.getLsbD_extractLsb']
  by_cases h : i < 8
  · simp [h]
  · by_cases h2 : i < 16
    · simp [h, show i - 8 < 8 by omega, show 8 + (i - 8) = i by omega]
    · by_cases h3 : i < 24
      · simp [h, show ¬ i - 8 < 8 by omega, show i - 8 - 8 < 8 by omega, show 16 + (i - 8 - 8) = i by omega]
      · simp [h, show ¬ i - 8 < 8 by omega, show ¬ i - 8 - 8 < 8 by omega, show i - 8 - 8 - 8 < 8 by omega,
          show 24 + (i - 8 - 8 - 8) = i by omega]

/-- A written sample reads back. -/
theorem State.sample_setSample_same (s : State) (f : FrameIx) (n : Nat) (v : Half) :
    (s.setSample f n v).sample f n = v := by
  have h0 : (s.setSample f n v).readByte (sampleAddr f n) = v.extractLsb' 0 8 :=
    s.readByte_writeBytes_inside (Nat.le_refl _) (by simp [halfBytes])
  have h1 : (s.setSample f n v).readByte (sampleAddr f n + 1) = v.extractLsb' 8 8 :=
    s.readByte_writeBytes_inside (Nat.le_add_right _ _) (by simp [halfBytes])
  rw [State.sample, State.readHalf, h0, h1]
  exact halfBytes_join v

/-- Every other sample of the two frames reads as before. -/
theorem State.sample_setSample_other (s : State) {f g : FrameIx} {n k : Nat} (v : Half) (hn : n < 512) (hk : k < 512)
    (h : g ≠ f ∨ k ≠ n) : (s.setSample f n v).sample g k = s.sample g k := by
  have hlen : (halfBytes v).length = 2 := rfl
  have hdist : sampleAddr g k + 1 < sampleAddr f n ∨ sampleAddr f n + 2 ≤ sampleAddr g k := by
    cases f <;> cases g <;> simp [sampleAddr, FrameIx.index] at h ⊢ <;> omega
  rw [State.sample, State.readHalf, State.setSample,
    s.readByte_writeBytes_outside (by omega), s.readByte_writeBytes_outside (by omega)]
  rfl

/-- A word of the RAMs written whole reads back. -/
theorem State.readWord_writeWord (s : State) (a : Nat) (d : Word) :
    (s.writeBytes a (wordBytes d)).readWord a = d := by
  have h0 : (s.writeBytes a (wordBytes d)).readByte a = d.extractLsb' 0 8 :=
    s.readByte_writeBytes_inside (Nat.le_refl _) (by simp [wordBytes])
  have h1 : (s.writeBytes a (wordBytes d)).readByte (a + 1) = d.extractLsb' 8 8 :=
    s.readByte_writeBytes_inside (Nat.le_add_right _ _) (by simp [wordBytes])
  have h2 : (s.writeBytes a (wordBytes d)).readByte (a + 2) = d.extractLsb' 16 8 :=
    s.readByte_writeBytes_inside (Nat.le_add_right _ _) (by simp [wordBytes])
  have h3 : (s.writeBytes a (wordBytes d)).readByte (a + 3) = d.extractLsb' 24 8 :=
    s.readByte_writeBytes_inside (Nat.le_add_right _ _) (by simp [wordBytes])
  rw [State.readWord, h0, h1, h2, h3]
  exact wordBytes_join d

/-- A written character of the sequence reads back. -/
theorem State.seqChar_setSeqChar_same (s : State) (i : Nat) (c : Byte) : (s.setSeqChar i c).seqChar i = c :=
  s.readByte_writeBytes_inside (Nat.le_refl _) (by simp)

/-- Every other character of the sequence reads as before. -/
theorem State.seqChar_setSeqChar_other (s : State) {i j : Nat} (c : Byte) (h : j ≠ i) :
    (s.setSeqChar i c).seqChar j = s.seqChar j := by
  refine s.readByte_writeBytes_outside ?_
  simp only [seqAddr, List.length_cons, List.length_nil]
  omega

/-- Byte `j` of bin `k` of a written spectrum is byte `8·k + j` of what is written. -/
theorem flatMap_binBytes_getElem? (bins : List Cx) (k j : Nat) (hj : j < 8) :
    (bins.flatMap fun z => binBytes (storedOf z))[8 * k + j]?
      = (bins[k]?).bind fun z => (binBytes (storedOf z))[j]? := by
  induction bins generalizing k with
  | nil => simp
  | cons z bins ih =>
    have hlen : (binBytes (storedOf z)).length = 8 := rfl
    cases k with
    | zero => simp [List.flatMap_cons, List.getElem?_append, hlen, hj]
    | succ k =>
      rw [List.flatMap_cons, List.getElem?_append_right (by omega), hlen,
        show 8 * (k + 1) + j - 8 = 8 * k + j by omega, ih k, List.getElem?_cons_succ]

/-- A written spectrum reads back, bin by bin. -/
theorem State.specBin_setSpectrum (s : State) {bins : List Cx} {k : Nat} {z : Cx} (hz : bins[k]? = some z) :
    (s.setSpectrum bins).specBin k = storedOf z := by
  have hb : ∀ j < 8, ∀ b, (binBytes (storedOf z))[j]? = some b →
      (s.setSpectrum bins).readByte (binAddr k + j) = b := by
    intro j hj b hjb
    refine s.readByte_writeBytes_inside (by simp only [binAddr]; omega) ?_
    rw [show binAddr k + j - binAddr 0 = 8 * k + j by simp only [binAddr]; omega,
      flatMap_binBytes_getElem? bins k j hj, hz]
    exact hjb
  have hre : (s.setSpectrum bins).readWord (binAddr k) = (storedOf z).re := by
    rw [State.readWord, hb 3 (by omega) _ rfl, hb 2 (by omega) _ rfl, hb 1 (by omega) _ rfl,
      show binAddr k = binAddr k + 0 from rfl, hb 0 (by omega) _ rfl]
    exact wordBytes_join _
  have him : (s.setSpectrum bins).readWord (binAddr k + 4) = (storedOf z).im := by
    rw [State.readWord, show binAddr k + 4 + 3 = binAddr k + 7 from rfl, show binAddr k + 4 + 2 = binAddr k + 6 from rfl,
      show binAddr k + 4 + 1 = binAddr k + 5 from rfl, hb 7 (by omega) _ rfl, hb 6 (by omega) _ rfl,
      hb 5 (by omega) _ rfl, hb 4 (by omega) _ rfl]
    exact wordBytes_join _
  rw [State.specBin, hre, him]

/-- The number of bytes of a spectrum. -/
theorem length_flatMap_binBytes (bins : List Cx) :
    (bins.flatMap fun z => binBytes (storedOf z)).length = 8 * bins.length := by
  induction bins with
  | nil => rfl
  | cons z bins ih =>
    have hlen : (binBytes (storedOf z)).length = 8 := rfl
    rw [List.flatMap_cons, List.length_append, ih, hlen, List.length_cons]
    omega

end Sys2Proof.Machine
end

