-- ==== Sys2Proof/Laws/Ops.lean ====
section
/-! SUPPORT. One lemma per shared operation: what it can do, said once. -/

namespace Sys2Proof.Machine

/-! ### Integers -/

/-- `wrap_32` changes no stored component: the pattern of a wrapped value is the value's pattern. -/
theorem ofInt_wrap (v : Int) : BitVec.ofInt 32 (wrap 32 v) = BitVec.ofInt 32 v := by
  apply BitVec.eq_of_toInt_eq
  simp only [BitVec.toInt_ofInt, wrap]
  norm_num [Int.bmod_bmod]

theorem wrap_range (v : Int) : -2147483648 ≤ wrap 32 v ∧ wrap 32 v < 2147483648 := by
  unfold wrap
  have h := Int.le_bmod (x := v) (m := 2 ^ 32) (by norm_num)
  have h' := Int.bmod_lt (x := v) (m := 2 ^ 32) (by norm_num)
  norm_num at h h' ⊢
  exact ⟨h, h'⟩

/-- `wrap_32` leaves a value alone that fits. -/
theorem wrap_of_range {v : Int} (hlo : -2147483648 ≤ v) (hhi : v < 2147483648) : wrap 32 v = v := by
  unfold wrap
  apply Int.bmod_eq_of_le <;> norm_num <;> omega

/-- What `RND(·, 14)` answers: the nearest integer to v / 2^14, a half rounded up (R12). -/
theorem rnd14_spec (v : Int) : 16384 * rnd v 14 ≤ v + 8192 ∧ v + 8192 < 16384 * rnd v 14 + 16384 := by
  have h : rnd v 14 = (v + 8192) / 16384 := by
    simp only [rnd, shiftDown]
    norm_num
  omega

/-- `sat_16` answers a 16-bit value. -/
theorem sat16_range (v : Int) : -32768 ≤ sat 16 v ∧ sat 16 v ≤ 32767 := by
  simp only [sat]
  norm_num

theorem isqrtFrom_spec (n m r : Nat) (hlo : r * r ≤ m) (hhi : m < (r + 2 ^ n) * (r + 2 ^ n)) :
    isqrtFrom n m r * isqrtFrom n m r ≤ m ∧ m < (isqrtFrom n m r + 1) * (isqrtFrom n m r + 1) := by
  induction n generalizing r with
  | zero => exact ⟨hlo, by simpa [isqrtFrom] using hhi⟩
  | succ n ih =>
    simp only [isqrtFrom]
    have h2 : r + 2 ^ n + 2 ^ n = r + 2 ^ (n + 1) := by ring
    split
    case isTrue h => exact ih _ h (by rw [h2]; exact hhi)
    case isFalse h => exact ih _ hlo (Nat.lt_of_not_le h)

/-- `isqrt` of a 64-bit value is its floor square root (R11). -/
theorem isqrt_spec {m : Nat} (hm : m < 2 ^ 64) :
    isqrt m * isqrt m ≤ m ∧ m < (isqrt m + 1) * (isqrt m + 1) :=
  isqrtFrom_spec 33 m 0 (Nat.zero_le _) (by norm_num; omega)

/-! ### Command classes: what an answer of each class can be -/

theorem runCuCommand_next {f : State → State} {s t : State} (h : runCuCommand f s = .next t) :
    (s.busy = true ∧ t = s.signal .cmdErr) ∨ (s.busy = false ∧ t = f s) := by
  unfold runCuCommand at h
  split at h
  case isTrue hb => exact .inl ⟨hb, by cases h; rfl⟩
  case isFalse hb => exact .inr ⟨by simpa using hb, by cases h; rfl⟩

theorem runJobCommand_next {j : Job} {s t : State} (h : runJobCommand j s = .next t) :
    ((s.auto = true ∨ s.busy = true) ∧ t = s.signal .cmdErr)
      ∨ (s.auto = false ∧ s.busy = false ∧ t = s.startJob j) := by
  unfold runJobCommand at h
  split at h
  case isTrue hb => exact .inl ⟨by simpa using hb, by cases h; rfl⟩
  case isFalse hb =>
    simp only [Bool.or_eq_true, not_or, Bool.not_eq_true] at hb
    exact .inr ⟨hb.1, hb.2, by cases h; rfl⟩

theorem runJobFrameCommand_next {j : Job} {s t : State} (h : runJobFrameCommand j s = .next t) :
    ((s.auto = true ∨ s.busy = true ∨ s.rdyP = false) ∧ t = s.signal .cmdErr)
      ∨ (s.auto = false ∧ s.busy = false ∧ s.rdyP = true ∧ t = s.startJob j) := by
  unfold runJobFrameCommand at h
  split at h
  case isTrue hb =>
    simp only [Bool.or_eq_true, Bool.not_eq_true'] at hb
    exact .inl ⟨by tauto, by cases h; rfl⟩
  case isFalse hb =>
    simp only [Bool.or_eq_true, Bool.not_eq_true', not_or, Bool.not_eq_true, Bool.not_eq_false] at hb
    exact .inr ⟨hb.1.1, hb.1.2, hb.2, by cases h; rfl⟩

theorem State.busy_eq_false_iff (s : State) : s.busy = false ↔ s.job = .none := by
  simp [State.busy]

/-! ### The token and the confirmation -/

theorem State.releaseToken_held {s : State} (h : s.rdyP = true) :
    s.releaseToken = State.signal { s with rdyP := false, clrPend := true } .frameDone := by
  simp only [State.releaseToken, h, if_true]

theorem State.releaseToken_notHeld {s : State} (h : s.rdyP = false) : s.releaseToken = s := by
  simp only [State.releaseToken, h]
  rfl

theorem State.requestConfirm_cases (s : State) :
    (s.calDone = true ∧ s.requestConfirm = s)
      ∨ (s.calDone = false ∧ s.requestConfirm = { s with confirmPend := true }) := by
  unfold State.requestConfirm
  cases h : s.calDone <;> simp

/-! ### The FFT's shape -/

theorem length_butterflies (h k : Nat) (a b : List Cx) : (butterflies h k a b).length = min a.length b.length := by
  induction a generalizing k b with
  | nil => simp [butterflies]
  | cons x a ih =>
    cases b with
    | nil => simp [butterflies]
    | cons y b => simp [butterflies, ih, Nat.succ_min_succ]

/-- A stage turns 2·r sub-transforms of length l into r of length 2·l (R281). -/
theorem fftStage_shape {ys : List (List Cx)} {r l : Nat} (hr : ys.length = 2 * r) (hl : ∀ y ∈ ys, y.length = l) :
    (fftStage ys).length = r ∧ ∀ y ∈ fftStage ys, y.length = 2 * l := by
  have hhalf : ys.length / 2 = r := by omega
  constructor
  · simp only [fftStage, List.length_zipWith, List.length_take, List.length_drop, hhalf]
    omega
  · intro y hy
    obtain ⟨i, hi, rfl⟩ := List.getElem_of_mem hy
    simp only [fftStage, List.getElem_zipWith, combinePair, List.length_append, List.length_map, length_butterflies]
    rw [hl _ (List.mem_of_mem_take (List.getElem_mem _)), hl _ (List.mem_of_mem_drop (List.getElem_mem _))]
    omega

theorem fftStages_shape {n r l : Nat} {ys : List (List Cx)} (hr : ys.length = 2 ^ n * r)
    (hl : ∀ y ∈ ys, y.length = l) :
    (fftStages n ys).length = r ∧ ∀ y ∈ fftStages n ys, y.length = 2 ^ n * l := by
  induction n generalizing ys l with
  | zero =>
    refine ⟨by simpa [fftStages] using hr, fun y hy => ?_⟩
    rw [hl y (by simpa [fftStages] using hy)]
    omega
  | succ n ih =>
    have h := fftStage_shape (r := 2 ^ n * r) (by rw [hr]; ring) hl
    have h2 := ih h.1 h.2
    refine ⟨h2.1, fun y hy => ?_⟩
    rw [h2.2 y hy]
    ring

/-- The spectrum of 512 samples has 512 bins (R281, R283). -/
theorem length_fft {x : List Int} (hx : x.length = 512) : (fft x).length = 512 := by
  have h := fftStages_shape (n := 9) (r := 1) (l := 1) (ys := fftStart x) (by simp [fftStart, hx])
    (by simp [fftStart])
  unfold fft
  match hm : fftStages 9 (fftStart x) with
  | [] => rw [hm] at h; simp at h
  | y :: _ => rw [hm] at h; simpa using h.2 y List.mem_cons_self

theorem State.length_frameSamples (s : State) (f : FrameIx) : (s.frameSamples f).length = 512 := by
  simp [State.frameSamples, Config.frameLength]

/-! ### Every write of the block keeps the canonical form of the RAMs -/

theorem ramAddress_sample {f : FrameIx} {n j : Nat} (hn : n < 512) (hj : j < 2) :
    ramAddress (sampleAddr f n + j) = true := by
  simp only [ramAddress, Bool.or_eq_true, Bool.and_eq_true, decide_eq_true_eq, beq_iff_eq]
  cases f <;> simp only [sampleAddr, FrameIx.index] <;> omega

theorem State.setSample_wf {s : State} (hm : Memory.wf s.mem = true) (f : FrameIx) {n : Nat} (hn : n < 512) (v : Half) :
    Memory.wf (s.setSample f n v).mem = true := by
  refine Memory.wf_write hm _ _ fun x h1 h2 => ?_
  have hlen : (halfBytes v).length = 2 := rfl
  have := ramAddress_sample (f := f) (j := x - sampleAddr f n) hn (by omega)
  rwa [show sampleAddr f n + (x - sampleAddr f n) = x by omega] at this

theorem State.setSeqChar_wf {s : State} (hm : Memory.wf s.mem = true) {i : Nat} (hi : i < 256) (c : Byte) :
    Memory.wf (s.setSeqChar i c).mem = true := by
  refine Memory.wf_write hm _ _ fun x h1 h2 => ?_
  simp only [seqAddr, List.length_cons, List.length_nil] at h1 h2
  simp [ramAddress]
  omega

theorem State.setSpectrum_wf {s : State} (hm : Memory.wf s.mem = true) {bins : List Cx} (hb : bins.length = 512) :
    Memory.wf (s.setSpectrum bins).mem = true := by
  refine Memory.wf_write hm _ _ fun x h1 h2 => ?_
  simp only [binAddr, length_flatMap_binBytes, hb] at h1 h2
  simp [ramAddress]
  omega

/-- A host write of one component of a bin of the window keeps the canonical form. -/
theorem State.writeBin_wf {s : State} (hm : Memory.wf s.mem = true) {a : Nat} (hlo : 0x4000 ≤ a) (hhi : a + 4 ≤ 0x5000)
    (d : Word) : Memory.wf (s.writeBytes a (wordBytes d)).mem = true := by
  refine Memory.wf_write hm _ _ fun x h1 h2 => ?_
  have hlen : (wordBytes d).length = 4 := rfl
  simp [ramAddress]
  omega

end Sys2Proof.Machine
end

