-- ==== Sys2Proof/Laws/PerInstr.lean ====
section
/-! SUPPORT. Facts about every command as syntax, one lemma per constructor of `Instr`. -/

/-- The low byte of a command's word is its opcode (R171). -/
def Sys2Proof.Laws.OpcodeField.Statement (i : Sys2Proof.Instr) : Prop :=
  Sys2Proof.fieldOp (Sys2Proof.encode i) = i.opcode

namespace Sys2Proof.Laws

/-- The opcode field of a word `(arg << 8) | op` is op. -/
theorem fieldOp_of_word {arg op : Nat} (h : op < 256) : fieldOp (BitVec.ofNat 32 (arg * 256 + op)) = op := by
  simp only [fieldOp, BitVec.extractLsb'_toNat, BitVec.toNat_ofNat]
  omega

theorem OpcodeField.nop : OpcodeField.Statement .nop := fieldOp_of_word (by decide)
theorem OpcodeField.cadd : OpcodeField.Statement .cadd := fieldOp_of_word (by decide)
theorem OpcodeField.csub : OpcodeField.Statement .csub := fieldOp_of_word (by decide)
theorem OpcodeField.cmul (sh : Nat) : OpcodeField.Statement (.cmul sh) := fieldOp_of_word (by simp [Instr.opcode])
theorem OpcodeField.cmag2 : OpcodeField.Statement .cmag2 := fieldOp_of_word (by decide)
theorem OpcodeField.cmag : OpcodeField.Statement .cmag := fieldOp_of_word (by decide)
theorem OpcodeField.cpolar (k : Nat) : OpcodeField.Statement (.cpolar k) := fieldOp_of_word (by simp [Instr.opcode])
theorem OpcodeField.cbfly (k : Nat) : OpcodeField.Statement (.cbfly k) := fieldOp_of_word (by simp [Instr.opcode])
theorem OpcodeField.fftRun : OpcodeField.Statement .fftRun := fieldOp_of_word (by decide)
theorem OpcodeField.goeRun : OpcodeField.Statement .goeRun := fieldOp_of_word (by decide)
theorem OpcodeField.fdet : OpcodeField.Statement .fdet := fieldOp_of_word (by decide)
theorem OpcodeField.gdet : OpcodeField.Statement .gdet := fieldOp_of_word (by decide)
theorem OpcodeField.decode : OpcodeField.Statement .decode := fieldOp_of_word (by decide)
theorem OpcodeField.process : OpcodeField.Statement .process := fieldOp_of_word (by decide)
theorem OpcodeField.release : OpcodeField.Statement .release := fieldOp_of_word (by decide)
theorem OpcodeField.seqReset : OpcodeField.Statement .seqReset := fieldOp_of_word (by decide)
theorem OpcodeField.calConfirm : OpcodeField.Statement .calConfirm := fieldOp_of_word (by decide)

end Sys2Proof.Laws
end

