-- ==== Sys2Proof/Tests/Slice0.lean ====
section
/-! SUPPORT. The model's own tests: ill-formed terms refused, one written-out word for every command, at most two small
steps per command with results from 95_test_vectors.md, and for every statement with hypotheses a state that meets
them. -/

namespace Sys2Proof.Tests

open Sys2Proof Sys2Proof.Machine

/-! ### The test instance of 95_test_vectors.md section 1, and small states -/

/-- The parameters of the test instance (95_test_vectors.md section 1). -/
def testParams : Params where
  gSequenceLength := 6
  rawBits := 12
  fftThreshRst := 0
  goeThreshRst := 0
  calSpanRst := 0
  fdetRef := .canonical

/-- The test instance after reset. -/
def idle : State := State.afterReset testParams 0

/-- The state a step answers; `idle` where it answers none. -/
def stateOf : Host.Outcome State Fault Refusal → State
  | .next t => t
  | .fault _ => idle
  | .refused _ => idle

/-- A stored complex value. -/
def cplx (re im : Int) : Cplx where
  re := BitVec.ofInt 32 re
  im := BitVec.ofInt 32 im

/-- The test instance with the two operands of the complex unit. -/
def operands (a b : Cplx) : State := { idle with cuA := a, cuB := b }

/-- A ready frame A in manual mode. -/
def ready : State := { idle with calDone := true, rdyS := true, rdyP := true, activeIdx := .b }

/-! ### WellFormed: ill-formed terms are refused -/

theorem test_illformed_cmul : (Instr.cmul 64).wellFormed = false := by decide

theorem test_illformed_cpolar : (Instr.cpolar 512).wellFormed = false := by decide

theorem test_illformed_cbfly : (Instr.cbfly 512).wellFormed = false := by decide

theorem test_wellformed_bounds :
    (Instr.cmul 63).wellFormed = true ∧ (Instr.cpolar 511).wellFormed = true ∧ (Instr.cbfly 511).wellFormed = true := by
  decide

/-! ### Decoding: words written out from the table of R172 -/

theorem test_decode_nop : decode 0x00000000#32 = .ok .nop := rfl

theorem test_decode_cadd : decode 0x00000001#32 = .ok .cadd := rfl

theorem test_decode_csub : decode 0x00000002#32 = .ok .csub := rfl

theorem test_decode_cmul : decode 0x00003F03#32 = .ok (.cmul 63) := rfl

theorem test_decode_cmag2 : decode 0x00000004#32 = .ok .cmag2 := rfl

theorem test_decode_cmag : decode 0x00000005#32 = .ok .cmag := rfl

theorem test_decode_cpolar : decode 0x00018006#32 = .ok (.cpolar 384) := rfl

theorem test_decode_cbfly : decode 0x0001FF07#32 = .ok (.cbfly 511) := rfl

theorem test_decode_fft_run : decode 0x00000010#32 = .ok .fftRun := rfl

theorem test_decode_goe_run : decode 0x00000011#32 = .ok .goeRun := rfl

theorem test_decode_fdet : decode 0x00000012#32 = .ok .fdet := rfl

theorem test_decode_gdet : decode 0x00000013#32 = .ok .gdet := rfl

theorem test_decode_decode : decode 0x00000014#32 = .ok .decode := rfl

theorem test_decode_process : decode 0x00000015#32 = .ok .process := rfl

theorem test_decode_release : decode 0x00000016#32 = .ok .release := rfl

theorem test_decode_seq_reset : decode 0x00000020#32 = .ok .seqReset := rfl

theorem test_decode_cal_confirm : decode 0x00000021#32 = .ok .calConfirm := rfl

/-- R173: an unassigned opcode, a reserved bit, unused argument bits. -/
theorem test_decode_illegal :
    decode 0x000000FF#32 = .error (.unassignedOp 0xFF) ∧ decode 0x01000000#32 = .error .reservedBits ∧
      decode 0x00000101#32 = .error (.unusedArgBits 1) ∧ decode 0x00004003#32 = .error (.unusedArgBits 3) ∧
      decode 0x00020006#32 = .error (.unusedArgBits 6) := ⟨rfl, rfl, rfl, rfl, rfl⟩

/-- The byte lanes of a word, lane 0 first (R102). -/
theorem test_decode_bytes : decodeBytes [0x07, 0x40, 0x00, 0x00, 0xAA] = .ok (.cbfly 64, [0xAA]) := rfl

theorem test_decode_short : decodeBytes [0x00, 0x00, 0x00] = .error .tooShort := rfl

theorem test_decode_table_word : decodeTableWord 32 0x00000E03 = some (.cmul 14) := rfl

/-! ### The complex unit: 95_test_vectors.md section 4.1, by row -/

theorem test_nop : (stateOf (exec .nop idle)).event = 0#9 := by decide

/-- V2 -/
theorem test_cadd_wraps :
    (stateOf (exec .cadd (operands (cplx 2147483647 (-2147483648)) (cplx 1 (-1))))).cuR
      = cplx (-2147483648) 2147483647 := by decide

/-- V4 -/
theorem test_csub : (stateOf (exec .csub (operands (cplx 5 (-7)) (cplx 10 3)))).cuR = cplx (-5) (-10) := by
  decide

/-- V17 -/
theorem test_cmul_rounds :
    (stateOf (exec (.cmul 14) (operands (cplx 1000 500) (cplx 16383 (-201))))).cuR = cplx 1006 488 := by
  decide

/-- V13: a half rounds up -/
theorem test_cmul_half : (stateOf (exec (.cmul 1) (operands (cplx (-5) 0) (cplx 1 0)))).cuR = cplx (-2) 0 := by
  decide

/-- V24 -/
theorem test_cmag2_largest :
    (stateOf (exec .cmag2 (operands (cplx (-2147483648) (-2147483648)) (cplx 0 0)))).cuM = 9223372036854775808#64 := by
  decide

/-- V29 -/
theorem test_cmag_floor :
    (stateOf (exec .cmag (operands (cplx 2147483647 2147483647) (cplx 0 0)))).cuM = 3037000498#64 := by
  decide +kernel

/-- V31 -/
theorem test_cmag : (stateOf (exec .cmag (operands (cplx 155626 (-179163)) (cplx 0 0)))).cuM = 237315#64 := by
  decide +kernel

/-- V39 -/
theorem test_cpolar : (stateOf (exec (.cpolar 1) (operands (cplx 16384 0) (cplx 0 0)))).cuR = cplx 16383 (-201) := by
  decide

/-- V36: the imaginary part wraps -/
theorem test_cpolar_wraps :
    (stateOf (exec (.cpolar 128) (operands (cplx (-2147483648) 0) (cplx 0 0)))).cuR = cplx 0 (-2147483648) := by
  decide

/-- V42 -/
theorem test_cbfly :
    (stateOf (exec (.cbfly 128) (operands (cplx 3 4) (cplx 1 (-2))))).cuR = cplx 1 3 ∧
      (stateOf (exec (.cbfly 128) (operands (cplx 3 4) (cplx 1 (-2))))).cuS = cplx 5 5 := by decide

/-- R200: a command of class CU while a job runs -/
theorem test_cadd_busy : (stateOf (exec .cadd { idle with job := .decode })).event = 0x010#9 := by decide

/-! ### Jobs and the other commands -/

theorem test_fft_run_without_frame : (stateOf (exec .fftRun idle)).event = 0x010#9 := by decide

theorem test_goe_run_starts : (stateOf (exec .goeRun ready)).job = .goeRun := by decide

/-- 95_test_vectors.md section 4.5: bins 59 and 61 of one tone -/
theorem test_fdet_canonical :
    fdetGroup .canonical 20000 (fun k => if k = 59 then ⟨30000, 0⟩ else if k = 61 then ⟨40000, 0⟩ else ⟨0, 0⟩)
      Config.lowFreqs = 941 := by decide +kernel

/-- The same spectrum in `BIN` mode -/
theorem test_fdet_bin :
    fdetGroup .bin 20000 (fun k => if k = 59 then ⟨30000, 0⟩ else if k = 61 then ⟨40000, 0⟩ else ⟨0, 0⟩)
      Config.lowFreqs = -1 := by decide +kernel

/-- E2 -/
theorem test_gdet_pair :
    (State.completeJob
      { idle with job := .gdet, jobGt := 1000000000#64, energy := #v[0, 0, 0, 2000000000, 0, 3000000000, 0, 0] }).tone
      = { low := 941#16, high := 1336#16 } := by decide

/-- E3 -/
theorem test_gdet_multitone :
    (State.completeJob
      { idle with
        job := .gdet, jobGt := 1000000000#64, energy := #v[2000000000, 0, 0, 2000000000, 0, 3000000000, 0, 0] }).tone
      = { low := 0xFFFF#16, high := 0xFFFF#16 } := by decide

/-- E1: 941 and 1336 Hz is '0', the word at 0x400 -/
theorem test_decode_accepts :
    (State.completeJob { idle with job := .decode, tone := { low := 941#16, high := 1336#16 } }).resultWord
      = 0x00003004#32 ∧
    (State.completeJob { idle with job := .decode, tone := { low := 941#16, high := 1336#16 } }).mem
      = [(0x400, 0x30#8)] := by decide

/-- R344: the full sequence -/
theorem test_decode_overflows :
    (State.completeJob
      { idle with job := .decode, seqLen := 4#8, tone := { low := 697#16, high := 1209#16 } }).event = 0x002#9 := by
  decide

theorem test_process_starts : (stateOf (exec .process { ready with alg := .goertzel })).jobAlg = .goertzel := by
  decide

/-- R246 -/
theorem test_release_commits :
    (stateOf (act .complete { ready with job := .release })).event = 0x040#9 ∧
      (stateOf (act .complete { ready with job := .release })).clrPend = true := by decide

theorem test_seq_reset : (stateOf (exec .seqReset { idle with seqLen := 3, lastChar := 0x35 })).seqLen = 0 := by decide

theorem test_cal_confirm : (stateOf (exec .calConfirm idle)).confirmPend = true := by decide

/-! ### The sampler, the bus and reset -/

/-- 95_test_vectors.md section 4.2: 1000·2048/4095 rounds down -/
theorem test_convert :
    State.convert { idle with maxAmp := 1000, halfAmp := 500 } 1 = BitVec.ofInt 16 (-500) ∧
      State.convert { idle with maxAmp := 65535, rawFs := 1, halfAmp := 0 } 4095 = 32767#16 := by decide

/-- 95_test_vectors.md section 4.2, tick 7: a straddling tick defers the confirmation -/
theorem test_straddle :
    State.straddles { idle with prevV := BitVec.ofInt 16 (-200), calSpan := 100 } 200#16 = true ∧
      State.straddles { idle with prevV := BitVec.ofInt 16 (-70), calSpan := 100 } 30#16 = false := by decide

/-- R444: `PARAM` of the test instance -/
theorem test_param : readVal idle .param = 0x000C0904#32 := by decide

/-- R142, R167: a frame window reads sign-extended -/
theorem test_frame_window : readVal { idle with mem := [(0x1000, 0x18), (0x1001, 0xFC)] } (.frame .a 0) = 0xFFFFFC18#32 := by
  decide

/-- R170: the word between `MIDPOINT` and `CU_A_RE` is unmapped -/
theorem test_unmapped : (stateOf (act (.busRead 0x04C#16 0xF#4) idle)).resp = .read 0 true := by decide

theorem test_twrom : twRomWord 511 = 0x00C93FFF#32 ∧ tw 85 = ⟨8250, -14155⟩ := by decide +kernel

/-- The first butterfly stage of two samples -/
theorem test_fft_stage : fftStage [[⟨5, 0⟩], [⟨3, 0⟩]] = [[⟨8, 0⟩, ⟨2, 0⟩]] := by decide

theorem test_keys : keyCode 3 1 = 0x30#8 ∧ keyCode 0 3 = 0x41#8 := by decide

/-- Memory: a later write replaces, and the canonical form is kept -/
theorem test_memory :
    Memory.write (Memory.write [] 0x404 [0x31]) 0x400 [0x32] = [(0x400, 0x32), (0x404, 0x31)] ∧
      Memory.write [(0x400, 0x32)] 0x400 [0x33] = [(0x400, 0x33)] := by decide

theorem test_reset_memory : Memory.wf State.reset.mem = true := rfl

/-- The first step after reset runs the command that `withFetchWord` places. -/
theorem test_first_step : (stateOf (step (State.reset.withFetchWord 32 0x21))).confirmPend = true := rfl

/-! ### Witnesses: states and operands that meet the hypotheses of each statement -/

/-- A command word on the agenda. -/
def scheduled : State := { idle with agenda := [cmdWriteAction 0x00000003#32] }

theorem witness_EncodeDecodeRoundTrip :
    (Instr.cmul 0).wellFormed = true ∧ (Instr.cmul 63).wellFormed = true ∧ (Instr.cpolar 511).wellFormed = true ∧
      (Instr.cbfly 0).wellFormed = true ∧ Instr.calConfirm.wellFormed = true := by decide

theorem witness_DecodeEncodeExact : decode 0x00003F03#32 = .ok (.cmul 63) ∧ decode 0x0001FF06#32 = .ok (.cpolar 511) :=
  ⟨rfl, rfl⟩

theorem witness_DecoderSelectsTableRow :
    0x00003F03#32 &&& 0xFFFFC0FF#32 = 0x00000003#32 ∧ (0xFFFFC0FF#32, 0x00000003#32) ∈ opcodeRows ∧
      decode 0x00003F03#32 = .ok (.cmul 63) := ⟨by decide, by decide, rfl⟩

/-- One word for each clause, at the ends of the ranges. -/
theorem witness_IllegalWordSignalsCmdErr :
    ([0x08#32, 0x0F#32, 0x17#32, 0x1F#32, 0x22#32, 0xFF#32, 0x01000000#32, 0x00004003#32, 0x00020006#32, 0x00020007#32,
        0x00000100#32].all fun w => opcodeRows.all fun row => w &&& row.1 != row.2) = true ∧
      [0x08#32, 0x0F#32, 0x17#32, 0x1F#32, 0x22#32, 0xFF#32].map fieldOp = [0x08, 0x0F, 0x17, 0x1F, 0x22, 0xFF] ∧
      fieldReserved 0x01000000#32 = 1 ∧ [0x00004003#32, 0x00020006#32, 0x00020007#32, 0x00000100#32].map fieldArg
        = [64, 512, 512, 1] := by decide

theorem witness_StepRunsDecodedCommand :
    scheduled.agenda = cmdWriteAction 0x00000003#32 :: [] ∧ decode 0x00000003#32 = .ok (.cmul 0) := ⟨rfl, rfl⟩

/-- An enabled and a disabled step at the head of the agenda. -/
theorem witness_StepTakesScheduledAction :
    enabled .deliverSet { idle with setPend := true, agenda := [] } = true ∧
      enabled .deliverSet { idle with agenda := [] } = false ∧ enabled .complete { ready with job := .fdet } = true ∧
      enabled .autoStart { ready with auto := true } = true := by decide

/-- The complex unit while a job runs. -/
def busyUnit : State := { idle with job := .fdet }

theorem witness_AddAndSubtract : idle.job = .none ∧ busyUnit.job ≠ .none := by decide

theorem witness_MultiplyRoundsOnce :
    decode 0x00000003#32 = .ok (.cmul 0) ∧ decode 0x00003F03#32 = .ok (.cmul 63) ∧ idle.job = .none ∧
      busyUnit.job ≠ .none := ⟨rfl, rfl, rfl, by decide⟩

theorem witness_MagnitudeSquaredIsExact : idle.job = .none ∧ busyUnit.job ≠ .none := by decide

theorem witness_MagnitudeIsFloorRoot : idle.job = .none ∧ busyUnit.job ≠ .none := by decide

theorem witness_PolarAtRomAngle : 0 < 512 ∧ 511 < 512 ∧ idle.job = .none ∧ busyUnit.job ≠ .none := by decide

theorem witness_ButterflyOfRegisters : 0 < 512 ∧ 511 < 512 ∧ idle.job = .none ∧ busyUnit.job ≠ .none := by decide

theorem witness_JobCommandsStart : ready.auto = false ∧ ready.job = .none ∧ ready.rdyP = true := by decide

theorem witness_CalibrationConfirm : idle.calDone = false ∧ ready.calDone = true := by decide

/-- Each row of the table: accepted, and turned away for each reason. -/
theorem witness_CommandAcceptanceTable :
    Instr.nop.commandClass = .any ∧ Instr.cadd.commandClass = .cu ∧ Instr.fdet.commandClass = .job ∧
      Instr.release.commandClass = .jobFrame ∧ (ready.auto = false ∧ ready.job = .none ∧ ready.rdyP = true) ∧
      ({ ready with auto := true } : State).auto = true ∧ ({ ready with job := .fdet } : State).job ≠ .none ∧
      idle.rdyP = false := by decide

theorem witness_CommandWriteFrame : exec .nop idle = .next idle := rfl

theorem witness_FftRunCommits : ({ ready with job := .fftRun } : State).job = .fftRun ∧ 511 < 512 := by decide

theorem witness_GoertzelRunCommits : ({ ready with job := .goeRun } : State).job = .goeRun := by decide

theorem witness_DetectorAndDecoderJobsCommit :
    ({ idle with job := .fdet } : State).job = .fdet ∧ ({ idle with job := .gdet } : State).job = .gdet ∧
      ({ idle with job := .decode } : State).job = .decode := by decide

/-- Both algorithms. -/
theorem witness_ProcessCommits :
    (∃ s : State, s.job = .process ∧ s.rdyP = true ∧ s.jobAlg = .fft) ∧
      ∃ s : State, s.job = .process ∧ s.rdyP = true ∧ s.jobAlg = .goertzel :=
  ⟨⟨{ ready with job := .process }, rfl, rfl, rfl⟩, ⟨{ ready with job := .process, jobAlg := .goertzel }, rfl, rfl, rfl⟩⟩

theorem witness_ReleaseCommits :
    (∃ s : State, s.job = .release ∧ s.rdyP = true) ∧ ∃ s : State, s.job = .release ∧ s.rdyP = false :=
  ⟨⟨{ ready with job := .release }, rfl, rfl⟩, ⟨{ idle with job := .release }, rfl, rfl⟩⟩

/-- A pair for each clause: silence, ambiguity, no low tone, no high tone. -/
theorem witness_DecoderRejectsNonKeys :
    ((0 : Int) = 0 ∨ (-1 : Int) = 0) ∧ ((-1 : Int) ≠ 0 ∧ (1209 : Int) ≠ 0 ∧ ((-1 : Int) = -1 ∨ (1209 : Int) = -1)) ∧
      ((698 : Int) ∉ [(697 : Int), 770, 852, 941]) ∧ ((697 : Int) ∉ [(1209 : Int), 1336, 1477, 1633]) := by decide

/-- Held, appended to an empty sequence, appended in the last place, overflowing. -/
theorem witness_DecoderResolvesKeys :
    keyCode 0 0 = ({ idle with lastChar := 0x31 } : State).lastChar ∧
      (keyCode 0 0 ≠ idle.lastChar ∧ idle.seqLen.toNat < idle.seqCap) ∧
      (({ idle with seqLen := 3 } : State).seqLen.toNat < ({ idle with seqLen := 3 } : State).seqCap) ∧
      ¬ (({ idle with seqLen := 4 } : State).seqLen.toNat < ({ idle with seqLen := 4 } : State).seqCap) := by
  decide

theorem witness_KeysRoundTrip : idle.lastChar = 0x4E#8 ∧ idle.seqLen.toNat < idle.seqCap := by decide

theorem witness_RepeatedToneAppendsOnce : keyCode 3 3 ≠ idle.lastChar ∧ idle.seqLen.toNat < idle.seqCap := by
  decide

/-- Four keys for a sequence of four, and a fifth that differs from the last. -/
theorem witness_OverflowAtCapacity :
    idle.par.legal = true ∧ idle.seqLen = 0#8 ∧
      ([(0, 0), (0, 1), (0, 0), (3, 3)] : List (Fin 4 × Fin 4)).length = idle.seqCap ∧
      ((idle.lastChar :: ([(0, 0), (0, 1), (0, 0), (3, 3)] : List (Fin 4 × Fin 4)).map fun k => keyCode k.1 k.2).IsChain
        (· ≠ ·)) ∧ keyCode 0 0 ≠ keyCode 3 3 := by decide

theorem witness_FftIsTheRecurrence : (List.replicate 512 (0 : Int)).length = 512 ∧ 511 < 512 :=
  ⟨List.length_replicate, by decide⟩

theorem witness_FftOfImpulse : (-32768 : Int) ≤ -32768 ∧ (-32768 : Int) ≤ 32767 := by decide

/-- The least samples, and the first and last positions of the first and of the last sub-transforms. -/
theorem witness_FftNeverOverflows :
    (∀ n : Nat, -32768 ≤ (fun _ => (-32768 : Int)) n ∧ (fun _ => (-32768 : Int)) n ≤ 32767) ∧
      (0 ≤ 9 ∧ 511 < 512 / 2 ^ 0 ∧ 0 < 2 ^ 0) ∧ (9 ≤ 9 ∧ 0 < 512 / 2 ^ 9 ∧ 511 < 2 ^ 9) :=
  ⟨fun _ => (by decide : (-32768 : Int) ≤ -32768 ∧ (-32768 : Int) ≤ 32767), by decide, by decide⟩

theorem zeros_are_samples : ∀ v ∈ List.replicate 512 (0 : Int), -32768 ≤ v ∧ v ≤ 32767 := fun _ hv =>
  List.eq_of_mem_replicate hv ▸ by decide

/-- A frame of zeros, whose states are zero in the wrapped and in the unwrapped recurrence. -/
theorem witness_ResonatorRecurrence :
    (List.replicate 512 (0 : Int)).length = 512 ∧
      (∀ n, n < 508 →
        (0 : Int) = wrap 32 ((List.replicate 512 (0 : Int)).getD n 0 + (28034 * 0 + 8192) / 16384 - 0)) ∧
      (∀ v ∈ List.replicate 512 (0 : Int), -32768 ≤ v ∧ v ≤ 32767) ∧ 28034 ∈ gcoef ∧
      ∀ n, n < 508 → (0 : Int) = (List.replicate 512 (0 : Int)).getD n 0 + (((28034 : Nat) : Int) * 0 + 8192) / 16384 - 0 :=
  have zero : ∀ n, n < 508 → (List.replicate 512 (0 : Int)).getD n 0 = 0 := fun n hn => by
    rw [List.getD_eq_getElem?_getD, List.getElem?_replicate, if_pos (Nat.lt_of_lt_of_le hn (by decide))]
    rfl
  ⟨List.length_replicate, fun n hn => by rw [zero n hn]; decide, zeros_are_samples, by decide, fun n hn => by
    rw [zero n hn]; decide⟩

/-- The least and the greatest 32-bit states, the last resonator, a frame of samples, and two frames that agree on the
window. -/
theorem witness_EnergiesOfTheWindow :
    9196 ∈ gcoef ∧ (-2 ^ 31 ≤ (-2147483648 : Int) ∧ (-2147483648 : Int) < 2 ^ 31) ∧
      (-2 ^ 31 ≤ (2147483647 : Int) ∧ (2147483647 : Int) < 2 ^ 31) ∧ 7 < 8 ∧
      (List.replicate 512 (0 : Int)).length = 512 ∧ (∀ v ∈ List.replicate 512 (0 : Int), -32768 ≤ v ∧ v ≤ 32767) ∧
      (List.replicate 508 (0 : Int) ++ [30000, 30000, 30000, 30000]).length = 512 ∧
      (List.replicate 508 (0 : Int) ++ [30000, 30000, 30000, 30000]).take 508
        = (List.replicate 508 (0 : Int) ++ [0, 0, 0, 0]).take 508 :=
  ⟨by decide, by decide, by decide, by decide, List.length_replicate, zeros_are_samples, by
    rw [List.length_append, List.length_replicate]; rfl, by
    rw [List.take_append_of_le_length (by rw [List.length_replicate]),
      List.take_append_of_le_length (by rw [List.length_replicate])]⟩

/-- A spectrum with both outer bins of the tone 941 above the threshold 5. -/
def oneTone (k : Nat) : Cx := if k = 59 ∨ k = 62 then ⟨6, 0⟩ else ⟨0, 0⟩

/-- A spectrum with two tones of the low group, and bins 59 and 61 around a bin at the threshold. -/
def twoTones (k : Nat) : Cx := if k = 43 ∨ k = 59 ∨ k = 61 then ⟨6, 0⟩ else ⟨5, 0⟩

theorem oneTone_candidates : ∀ i ≤ 256, 5 * 5 < mag2 (oneTone i) → matchFreq Config.lowFreqs i = some 941 := by
  decide +kernel

/-- A spectrum that is zero but for the four bins of the tone 941. -/
def fourBins (r : Fin 4 → Int) (k : Nat) : Cx :=
  ⟨if k = 59 then r 0 else if k = 60 then r 1 else if k = 61 then r 2 else if k = 62 then r 3 else 0, 0⟩

theorem fourBins_elsewhere (r : Fin 4 → Int) (i : Nat) (h : i < 59 ∨ 59 + 3 < i) : mag2 (fourBins r i) ≤ 5 * 5 := by
  have h0 : fourBins r i = ⟨0, 0⟩ := by
    unfold fourBins
    rw [if_neg (by omega), if_neg (by omega), if_neg (by omega), if_neg (by omega)]
  rw [h0]
  decide

/-- No candidate, one frequency, two frequencies, and the two bins of the first `BIN` clause; of the second, two neighbours,
three bins that rise or tie, and four bins that rise or tie at the end. -/
theorem witness_FdetClosedForm :
    (∀ i f, ¬ (i ≤ 256 ∧ matchFreq Config.lowFreqs i = some f ∧ 6 * 6 < mag2 (oneTone i))) ∧
      (∃ i, i ≤ 256 ∧ matchFreq Config.lowFreqs i = some 941 ∧ 5 * 5 < mag2 (oneTone i)) ∧
      (∀ i f, i ≤ 256 ∧ matchFreq Config.lowFreqs i = some f ∧ 5 * 5 < mag2 (oneTone i) → f = 941) ∧
      (matchFreq Config.lowFreqs 43 = some 697 ∧ 5 * 5 < mag2 (twoTones 43)) ∧
      (matchFreq Config.lowFreqs 59 = some 941 ∧ 5 * 5 < mag2 (twoTones 59)) ∧
      (5 * 5 < mag2 (twoTones 61) ∧ mag2 (twoTones 60) ≤ 5 * 5) ∧
      (∀ r i, (i < 59 ∨ 59 + 3 < i) → mag2 (fourBins r i) ≤ 5 * 5) ∧
      ((941, 59) ∈ [(697, 43), (770, 48), (852, 53), (941, 59)] ∧ 5 * 5 < mag2 (fourBins ![6, 6, 0, 0] 59) ∧
        5 * 5 < mag2 (fourBins ![6, 6, 0, 0] 60) ∧ mag2 (fourBins ![6, 6, 0, 0] 61) ≤ 5 * 5 ∧
        mag2 (fourBins ![6, 6, 0, 0] 62) ≤ 5 * 5) ∧
      (∀ r ∈ [![6, 7, 6, 5], ![6, 6, 7, 5]], 5 * 5 < mag2 (fourBins r 59) ∧ 5 * 5 < mag2 (fourBins r 60) ∧
        5 * 5 < mag2 (fourBins r 61) ∧ mag2 (fourBins r 62) ≤ 5 * 5) ∧
      mag2 (fourBins ![6, 7, 6, 5] 59) < mag2 (fourBins ![6, 7, 6, 5] 60) ∧
      ¬ mag2 (fourBins ![6, 6, 7, 5] 59) < mag2 (fourBins ![6, 6, 7, 5] 60) ∧
      (∀ r ∈ [![6, 7, 8, 6], ![6, 7, 7, 6]], 5 * 5 < mag2 (fourBins r 59) ∧ 5 * 5 < mag2 (fourBins r 60) ∧
        5 * 5 < mag2 (fourBins r 61) ∧ 5 * 5 < mag2 (fourBins r 62)) ∧
      mag2 (fourBins ![6, 7, 8, 6] 60) < mag2 (fourBins ![6, 7, 8, 6] 61) ∧
      ¬ mag2 (fourBins ![6, 7, 7, 6] 60) < mag2 (fourBins ![6, 7, 7, 6] 61) :=
  ⟨fun i f h => by
      have h3 := h.2.2
      unfold oneTone at h3
      split at h3 <;> exact absurd h3 (by decide),
    ⟨59, by decide⟩,
    fun i f h => Option.some.inj (h.2.1.symm.trans (oneTone_candidates i h.1 h.2.2)), by decide, by decide, by decide,
    fourBins_elsewhere, by decide, by decide, by decide, by decide, by decide, by decide, by decide⟩

/-- A spectrum whose bins are all at the threshold, and energies at the threshold. -/
theorem witness_BelowThresholdIsSilence :
    (∃ s : State, s.job = .fdet ∧ ∀ i, i ≤ 256 → mag2 (valueOf (s.specBin i)) ≤ s.jobFt.toNat * s.jobFt.toNat) ∧
      ∃ s : State, s.job = .gdet ∧ ∀ b, b < 8 → (s.energyAt b).toNat ≤ s.jobGt.toNat :=
  ⟨⟨({ idle with job := .fdet, jobFt := 0xFFFFFFFF#32 } : State), rfl, fun i _ => by
      have h1 := BitVec.le_two_mul_toInt (x := (({ idle with job := .fdet, jobFt := 0xFFFFFFFF#32 } : State).specBin i).re)
      have h2 := BitVec.two_mul_toInt_lt (x := (({ idle with job := .fdet, jobFt := 0xFFFFFFFF#32 } : State).specBin i).re)
      have h3 := BitVec.le_two_mul_toInt (x := (({ idle with job := .fdet, jobFt := 0xFFFFFFFF#32 } : State).specBin i).im)
      have h4 := BitVec.two_mul_toInt_lt (x := (({ idle with job := .fdet, jobFt := 0xFFFFFFFF#32 } : State).specBin i).im)
      generalize (({ idle with job := .fdet, jobFt := 0xFFFFFFFF#32 } : State).specBin i) = z at h1 h2 h3 h4 ⊢
      have hf : ({ idle with job := .fdet, jobFt := 0xFFFFFFFF#32 } : State).jobFt.toNat = 4294967295 := rfl
      rw [hf]
      unfold mag2 valueOf
      dsimp only
      rw [Int.toNat_le]
      push_cast at h1 h2 h3 h4 ⊢
      nlinarith⟩,
    ⟨({ idle with job := .gdet } : State), rfl, by decide⟩⟩

/-- Two energies of one group above the threshold; at most one in each. -/
theorem witness_GdetGroups :
    ([5, 5, 0, 0, 0, 0, 0, 0] : List Nat).length = 8 ∧
      2 ≤ ((Config.lowFreqs.zip ([5, 5, 0, 0, 0, 0, 0, 0].take 4)).filter fun p => decide (4 < p.2)).length ∧
      2 ≤ ((Config.highFreqs.zip ([0, 0, 0, 0, 0, 0, 5, 5].drop 4)).filter fun p => decide (4 < p.2)).length ∧
      ((Config.lowFreqs.zip ([5, 0, 0, 0, 0, 0, 0, 5].take 4)).filter fun p => decide (4 < p.2)).length ≤ 1 ∧
      ((Config.highFreqs.zip ([5, 0, 0, 0, 0, 0, 0, 5].drop 4)).filter fun p => decide (4 < p.2)).length ≤ 1 := by
  decide

theorem witness_CalibrationTick : idle.calDone = false := by decide

/-- The first and the last place of a frame, with the token at the sampler and out. -/
theorem witness_FrameTick :
    (∃ s : State, s.calDone = true ∧ s.fill.toNat < 511) ∧
      (∃ s : State, s.calDone = true ∧ s.fill.toNat = 511 ∧ s.rdyS = false) ∧
      ∃ s : State, s.calDone = true ∧ s.fill.toNat = 511 ∧ s.rdyS = true :=
  ⟨⟨ready, by decide⟩, ⟨{ idle with calDone := true, fill := 511 }, by decide⟩, ⟨{ ready with fill := 511 }, by decide⟩⟩

/-- The least and the greatest `RAW_FS`; the least, a middle and the greatest width of a reading, each with its greatest
reading. -/
theorem witness_ConversionAtReset :
    ({ idle with rawFs := 1 } : State).rawFs ≠ 0#16 ∧ ({ idle with rawFs := 65535 } : State).rawFs ≠ 0#16 ∧
      ({ testParams with rawBits := 1 } : Params).legal = true ∧ (1#16).toNat < 2 ^ 1 ∧
      ({ testParams with rawBits := 15 } : Params).legal = true ∧ (32767#16).toNat < 2 ^ 15 ∧
      ({ testParams with rawBits := 16 } : Params).legal = true ∧ (65535#16).toNat < 2 ^ 16 := by decide

/-- R237 by hand: ⌊2·5 / 3⌋ − 1 = 2, and 65535·65535 / 1 + 32768 saturates at 32767. -/
theorem test_convert_calibrated :
    ({ idle with maxAmp := 5, rawFs := 3, halfAmp := 1 } : State).convert 2 = 2 ∧
      ({ idle with maxAmp := 65535, rawFs := 1, halfAmp := 0x8000 } : State).convert 65535 = 0x7FFF := by decide

theorem witness_InternalSteps : idle.calDone = false ∧ ready.calDone = true := by decide

/-- A ready frame satisfies the invariants. -/
theorem ready_inv : Inv ready where
  memory := rfl
  params := by decide
  token := by decide
  otherFrame := by decide
  sameIndex := by decide
  rawFs := by decide
  band := by decide
  sequence := by decide
  confirmed := by decide
  uncalibrated := by decide
  jobFrame := by decide

/-- The ready state with a command on its agenda satisfies them too. -/
theorem ready_scheduled_inv : Inv { ready with agenda := [.confirmEdge] } where
  memory := rfl
  params := by decide
  token := by decide
  otherFrame := by decide
  sameIndex := by decide
  rawFs := by decide
  band := by decide
  sequence := by decide
  confirmed := by decide
  uncalibrated := by decide
  jobFrame := by decide

theorem witness_InvariantKept :
    Inv { ready with agenda := [.confirmEdge] } ∧ step { ready with agenda := [.confirmEdge] } = .next ready :=
  ⟨ready_scheduled_inv, rfl⟩

/-- A frame waiting to be delivered. -/
def waiting : State := { idle with calDone := true, rdyS := true, setPend := true, activeIdx := .b }

/-- A frame with a running job. -/
def running : State := { ready with job := .process }

theorem waiting_inv : Inv waiting where
  memory := rfl
  params := by decide
  token := by decide
  otherFrame := by decide
  sameIndex := by decide
  rawFs := by decide
  band := by decide
  sequence := by decide
  confirmed := by decide
  uncalibrated := by decide
  jobFrame := by decide

theorem running_inv : Inv running where
  memory := rfl
  params := by decide
  token := by decide
  otherFrame := by decide
  sameIndex := by decide
  rawFs := by decide
  band := by decide
  sequence := by decide
  confirmed := by decide
  uncalibrated := by decide
  jobFrame := by decide

/-- A frame on its way, a frame delivered, and a frame read by a job. -/
theorem witness_ReadyFrameStable :
    (Inv waiting ∧ waiting.setPend = true ∧ enabled .deliverSet waiting = true) ∧
      (Inv ready ∧ ready.rdyP = true ∧ enabled (.tick 0) ready = true) ∧
      Inv running ∧ running.job.needsFrame = true ∧ enabled (.tick 0) running = true :=
  ⟨⟨waiting_inv, by decide⟩, ⟨ready_inv, by decide⟩, running_inv, by decide⟩

/-- The state of the fair run below after `n` steps: a delivery, a release, its acknowledgement, then confirmations that
change nothing. -/
def runState : Nat → State
  | 0 => { idle with
      calDone := true, auto := true, rdyS := true, setPend := true, rdyP := true, clrPend := true, job := .release }
  | 1 => { idle with calDone := true, auto := true, rdyS := true, rdyP := true, clrPend := true, job := .release }
  | 2 => { idle with calDone := true, auto := true, rdyS := true, clrPend := true, event := 0x040#9 }
  | _ + 3 => { idle with calDone := true, auto := true, event := 0x040#9 }

/-- The steps of that run. -/
def runAction : Nat → Action
  | 0 => .deliverSet
  | 1 => .complete
  | 2 => .deliverClr
  | _ + 3 => .confirmEdge

/-- A fair run whose first state meets the hypothesis of every clause. -/
theorem witness_FairRunsMakeProgress :
    FairRun runState runAction ∧ (runState 0).setPend = true ∧ (runState 0).clrPend = true ∧
      (runState 0).job ≠ .none ∧ (runState 0).rdyP = true ∧ ∀ m, 0 ≤ m → (runState m).auto = true where
  left :=
    { isEnabled := fun n => match n with
        | 0 => rfl
        | 1 => rfl
        | 2 => rfl
        | _ + 3 => rfl
      follows := fun n => match n with
        | 0 => rfl
        | 1 => rfl
        | 2 => rfl
        | _ + 3 => rfl
      fairSet := fun n h => absurd (h (n + 3) (by omega)) (by simp [enabled, runState, idle, State.afterReset])
      fairClr := fun n h => absurd (h (n + 3) (by omega)) (by simp [enabled, runState, idle, State.afterReset])
      fairComplete := fun n h =>
        absurd (h (n + 3) (by omega)) (by simp [enabled, runState, idle, State.afterReset, State.busy])
      fairStart := fun n h =>
        absurd (h (n + 3) (by omega)) (by simp [enabled, runState, idle, State.afterReset, State.busy]) }
  right := ⟨rfl, rfl, by decide, rfl, fun m _ => match m with
    | 0 => rfl
    | 1 => rfl
    | 2 => rfl
    | _ + 3 => rfl⟩

theorem witness_CalibrationIsFinal : act .confirmEdge ready = .next ready ∧ ready.calDone = true := ⟨rfl, rfl⟩

theorem witness_SequenceIsAppendOnly :
    Inv ready ∧ act .confirmEdge ready = .next ready ∧ Action.confirmEdge ≠ .reset ∧
      Action.confirmEdge ≠ .busWrite 0x018#16 0xF#4 0x00000020#32 := ⟨ready_inv, rfl, by decide, by decide⟩

theorem witness_EventsAreSticky :
    act .confirmEdge { ready with event := 0x100#9 } = .next { ready with event := 0x100#9 } ∧
      (0x100#9).getLsbD 8 = true := ⟨rfl, by decide⟩

/-- The ends of the unmapped ranges, and their mapped neighbours. -/
theorem witness_BusRefusals :
    ([0x04C#16, 0x078#16, 0x07C#16, 0x0E0#16, 0x3FC#16, 0x800#16, 0xFFC#16, 0x1800#16, 0x1FFC#16, 0x2800#16, 0x3FFC#16,
        0x5000#16, 0x7FFC#16, 0x8800#16, 0xFFFC#16, 0x001#16].all fun o => (accessLoc o 0xF#4).isNone) = true ∧
      accessLoc 0x000#16 0x7#4 = none ∧
      ([0x000#16, 0x048#16, 0x050#16, 0x074#16, 0x080#16, 0x0DC#16, 0x400#16, 0x7FC#16, 0x1000#16, 0x17FC#16, 0x2000#16,
        0x27FC#16, 0x4000#16, 0x4FFC#16, 0x8000#16, 0x87FC#16].all fun o => (accessLoc o 0xF#4).isSome) = true := by
  decide

/-- A word that no job writes, and the first and last words that each kind of job writes. -/
theorem witness_ReadsChangeNoRegister :
    idle.job = .none ∧ ({ idle with job := .fdet } : State).job = .fdet ∧ ({ idle with job := .goeRun } : State).job = .goeRun ∧
      ({ running with jobAlg := .goertzel } : State).jobAlg = .goertzel ∧ (running.job = .process ∧ running.jobAlg = .fft) ∧
      [0x020#16, 0x080#16, 0x0BC#16, 0x4000#16, 0x4FFC#16].map (fun off => off.toNat % 4) = [0, 0, 0, 0, 0] := by
  decide

/-- A state in which no job runs, and the last index of each window. -/
theorem witness_RegisterMapReads :
    (idle.job ≠ .fdet ∧ idle.job ≠ .gdet ∧ idle.job ≠ .process ∧ idle.job ≠ .goeRun ∧ idle.job ≠ .fftRun) ∧
      7 < 8 ∧ 255 < 256 ∧ 511 < 512 := by decide

/-- The last word of the spectrum and the last energy, with the storage open and closed for either reason. -/
theorem witness_JobStorageWrites :
    1023 < 1024 ∧ 7 < 8 ∧ idle.auto = false ∧ idle.job = .none ∧ ({ idle with auto := true } : State).auto = true ∧
      ({ idle with job := .decode } : State).job ≠ .none := by decide

/-- Before and after calibration, a zero and a nonzero low half, and the ends of the read-only windows. -/
theorem witness_ControlWrites :
    idle.calDone = false ∧ ready.calDone = true ∧ (0xFFFF0000#32).extractLsb' 0 16 = 0#16 ∧
      (0x00000001#32).extractLsb' 0 16 ≠ 0#16 ∧
      ([0x000#16, 0x048#16, 0x060#16, 0x074#16, 0x0C0#16, 0x0DC#16, 0x400#16, 0x7FC#16, 0x1000#16, 0x17FC#16, 0x2000#16,
        0x27FC#16, 0x8000#16, 0x87FC#16].all fun off => off.toNat % 4 = 0) = true := by decide

theorem witness_ResetReads :
    testParams.legal = true ∧ ({ testParams with gSequenceLength := 257 } : Params).legal = true ∧ 15 < 16 ∧ 255 < 256 := by
  decide

theorem witness_ManualEqualsProcess :
    ready.auto = false ∧ ready.job = .none ∧ ready.rdyP = true ∧ ready.alg = .fft ∧
      ({ ready with alg := .goertzel } : State).alg = .goertzel := by decide

end Sys2Proof.Tests
end

namespace Sys2Proof.Machine

/-! ## What a step can do

One inversion lemma for each step of R420 that branches: commands, bus writes, decodes, scheduled steps. A statement about
all steps is proved from these. -/

/-- All that a command can do to the state (R367): refuse, write result registers of the complex unit (`NOP` keeps all of
them), start a job under its precondition, empty the sequence, or request the confirmation. -/
inductive CommandEffect (s : State) : State → Prop where
  | refused : CommandEffect s (s.signal .cmdErr)
  | results (r q : Cplx) (m : Dword) : CommandEffect s { s with cuR := r, cuS := q, cuM := m }
  | started (j : Job) (idle : s.job = .none) (frame : j.needsFrame = true → s.rdyP = true) :
      CommandEffect s (s.startJob j)
  | seqReset : CommandEffect s { s with seqLen := 0, lastChar := noiseChar }
  | confirm : CommandEffect s s.requestConfirm

theorem runCuCommand_effect {f : State → State} {s t : State} (h : runCuCommand f s = .next t)
    (hf : ∃ r q m, f s = { s with cuR := r, cuS := q, cuM := m }) : CommandEffect s t := by
  obtain ⟨r, q, m, hf⟩ := hf
  obtain ⟨-, rfl⟩ | ⟨-, rfl⟩ := runCuCommand_next h
  · exact .refused
  · exact hf ▸ .results r q m

theorem runJobCommand_effect {j : Job} {s t : State} (h : runJobCommand j s = .next t) (hj : j.needsFrame = false) :
    CommandEffect s t := by
  obtain ⟨-, rfl⟩ | ⟨-, hbusy, rfl⟩ := runJobCommand_next h
  · exact .refused
  · exact .started j (s.busy_eq_false_iff.mp hbusy) (by simp [hj])

theorem runJobFrameCommand_effect {j : Job} {s t : State} (h : runJobFrameCommand j s = .next t) :
    CommandEffect s t := by
  obtain ⟨-, rfl⟩ | ⟨-, hbusy, hrdy, rfl⟩ := runJobFrameCommand_next h
  · exact .refused
  · exact .started j (s.busy_eq_false_iff.mp hbusy) fun _ => hrdy

/-- Every command has one of the effects of `CommandEffect`. -/
theorem exec_effect {i : Instr} {s t : State} (h : exec i s = .next t) : CommandEffect s t := by
  cases i with
  | nop => cases h; exact .results s.cuR s.cuS s.cuM
  | cadd | csub | cmul _ | cpolar _ =>
    simp only [exec, execCadd, execCsub, execCmul, execCpolar] at h
    exact runCuCommand_effect h ⟨_, s.cuS, s.cuM, rfl⟩
  | cbfly _ =>
    simp only [exec, execCbfly] at h
    exact runCuCommand_effect h ⟨_, _, s.cuM, rfl⟩
  | cmag2 | cmag =>
    simp only [exec, execCmag2, execCmag] at h
    exact runCuCommand_effect h ⟨s.cuR, s.cuS, _, rfl⟩
  | fftRun | goeRun | process | release => exact runJobFrameCommand_effect h
  | fdet | gdet | decode => exact runJobCommand_effect h rfl
  | seqReset => cases h; exact .seqReset
  | calConfirm => cases h; exact .confirm

/-- All that a bus write can do (R103, R105, R367): be refused, run a command (an illegal word has the effect of a
refused one), or write the mapped word it reaches. -/
theorem busWrite_cases {off : Half} {lanes : BitVec 4} {d : Word} {s t : State} (h : busWrite off lanes d s = .next t) :
    t = { s with resp := .write true } ∨
      (accessLoc off lanes = some .cmd ∧ CommandEffect { s with resp := .write false } t) ∨
      ∃ l, accessLoc off lanes = some l ∧ t = writeReg { s with resp := .write false } l d := by
  unfold busWrite at h
  split at h
  case h_1 => cases h; exact .inl rfl
  case h_2 hl =>
    refine .inr (.inl ⟨hl, ?_⟩)
    unfold cmdWrite at h
    split at h
    case h_1 => exact exec_effect h
    case h_2 => cases h; exact .refused
  case h_3 l _ hl => cases h; exact .inr (.inr ⟨l, hl, rfl⟩)

/-- All that a decode can do (R341): noise, multitone, hold, append while there is room, or overflow. -/
inductive DecodeEffect (s : State) : State → Prop where
  | noise : DecodeEffect s s.decodeNoise
  | multitone : DecodeEffect s s.decodeMultitone
  | hold (sym : Byte) : DecodeEffect s (s.setResult .hold sym)
  | accepted (sym : Byte) (room : s.seqLen.toNat < s.seqCap) :
      DecodeEffect s ((State.setResult { s.setSeqChar s.seqLen.toNat sym with seqLen := s.seqLen + 1, lastChar := sym }
        .accepted sym).signal .symbol)
  | overflow (sym : Byte) : DecodeEffect s ((s.setResult .overflow sym).signal .overflow)

theorem State.decodeSymbol_effect (s : State) (sym : Byte) : DecodeEffect s (s.decodeSymbol sym) := by
  unfold State.decodeSymbol
  split
  case isTrue => exact .hold sym
  case isFalse =>
    split
    case isTrue room => exact .accepted sym room
    case isFalse => exact .overflow sym

theorem State.decodeStep_effect (s : State) (lo hi : Int) : DecodeEffect s (s.decodeStep lo hi) := by
  unfold State.decodeStep
  split
  case isTrue => exact .noise
  case isFalse =>
    split
    case isTrue => exact .multitone
    case isFalse =>
      split
      case h_1 r c _ _ => exact s.decodeSymbol_effect (keyCode r c)
      case h_2 => exact .noise

/-- All that a scheduled step can do (R420; log entries 1, 2): move the schedule on, and then nothing, or the enabled
action. -/
theorem step_cases {s t : State} (h : step s = .next t) :
    ∃ n rest, t = { s with draws := n, agenda := rest } ∨
      ∃ a, enabled a { s with draws := n, agenda := rest } = true ∧
        act a { s with draws := n, agenda := rest } = .next t := by
  obtain ⟨n, rest, hnext⟩ : ∃ n rest, s.nextStep.2 = { s with draws := n, agenda := rest } := by
    unfold State.nextStep
    split
    case h_1 => exact ⟨_, _, rfl⟩
    case h_2 rest _ => exact ⟨s.draws, rest, rfl⟩
  refine ⟨n, rest, ?_⟩
  rw [step, hnext] at h
  unfold perform at h
  split at h
  case isTrue hen => exact .inr ⟨_, hen, h⟩
  case isFalse => cases h; exact .inl rfl

/-! ### The bins the bus reaches (R141, R165) -/

/-- A register that stands alone is no word of the spectrum, and a word of the window has its index below 512. -/
theorem locOf_spec {o k : Nat} {l : Loc} (hl : locOf o = some l) (hk : l = .specRe k ∨ l = .specIm k) : k < 512 := by
  unfold locOf at hl
  split at hl
  case h_1 l' hlook =>
    obtain ⟨pre, post, hmap, -⟩ := List.lookup_eq_some_iff.mp hlook
    have hmem : (o, l') ∈ registerMap := by simp [hmap]
    obtain rfl : l' = l := by simpa using hl
    rcases hk with rfl | rfl <;> simp [registerMap] at hmem
  case h_2 =>
    -- only the window of the spectrum answers such a word, and there `(o - 0x4000) / 8 < 512`
    unfold windowLoc at hl
    rcases hk with rfl | rfl <;> grind

theorem accessLoc_spec {off : Half} {lanes : BitVec 4} {l : Loc} {k : Nat} (hl : accessLoc off lanes = some l)
    (hk : l = .specRe k ∨ l = .specIm k) : k < 512 := by
  unfold accessLoc at hl
  split at hl
  case isTrue => exact locOf_spec hl hk
  case isFalse => cases hl

/-! ## The invariants (R37, R40, R47, R54, R245)

First what R47 and R54 say in the forms the steps need, then the reset state, then each kind of step. -/

/-- R47: the token is with the sampler, on its way out, with the P domain, or on its way back. -/
theorem Inv.token_cases {s : State} (h : Inv s) :
    (s.rdyS = false ∧ s.setPend = false ∧ s.rdyP = false ∧ s.clrPend = false) ∨
      (s.rdyS = true ∧ s.setPend = true ∧ s.rdyP = false ∧ s.clrPend = false) ∨
      (s.rdyS = true ∧ s.setPend = false ∧ s.rdyP = true ∧ s.clrPend = false) ∨
      (s.rdyS = true ∧ s.setPend = false ∧ s.rdyP = false ∧ s.clrPend = true) := by
  have token := h.token
  revert token
  generalize s.rdyS = r, s.setPend = p, s.rdyP = q, s.clrPend = c
  revert r p q c
  decide

theorem Inv.of_not_rdyS {s : State} (h : Inv s) (hr : s.rdyS = false) :
    s.setPend = false ∧ s.rdyP = false ∧ s.clrPend = false := by
  simpa [hr] using h.token_cases

theorem Inv.of_setPend {s : State} (h : Inv s) (hp : s.setPend = true) :
    s.rdyS = true ∧ s.rdyP = false ∧ s.clrPend = false := by
  simpa [hp] using h.token_cases

theorem Inv.of_rdyP {s : State} (h : Inv s) (hp : s.rdyP = true) :
    s.rdyS = true ∧ s.setPend = false ∧ s.clrPend = false := by
  simpa [hp] using h.token_cases

theorem Inv.of_clrPend {s : State} (h : Inv s) (hp : s.clrPend = true) :
    s.rdyS = true ∧ s.setPend = false ∧ s.rdyP = false := by
  simpa [hp] using h.token_cases

/-- R54: the sequence's capacity is that of an 8-bit length. -/
theorem Inv.seqCap_le {s : State} (h : Inv s) : s.seqCap ≤ 255 := by
  have hl := h.params
  simp only [Params.legal, decide_eq_true_eq] at hl
  simp only [State.seqCap, Params.seqCap]
  omega

/-! ### Reset -/

/-- R62: the reset state of every block with legal parameters meets the invariants. -/
theorem inv_afterReset {p : Params} (hp : p.legal = true) (n : Nat) : Inv (State.afterReset p n) where
  memory := rfl
  params := hp
  token := rfl
  otherFrame := by simp [State.afterReset]
  sameIndex := fun _ => rfl
  rawFs := by
    have hl := hp
    simp only [Params.legal, decide_eq_true_eq] at hl
    have hlo : 2 ^ 1 ≤ 2 ^ p.rawBits := Nat.pow_le_pow_right (by norm_num) (by omega)
    have hhi : 2 ^ p.rawBits ≤ 2 ^ 16 := Nat.pow_le_pow_right (by norm_num) (by omega)
    have hval : (State.afterReset p n).rawFs.toNat = (2 ^ p.rawBits - 1) % 2 ^ 16 := BitVec.toNat_ofNat ..
    intro h0
    rw [h0, show (0 : Half).toNat = 0 from rfl] at hval
    omega
  band := by simp [State.afterReset]
  sequence := by simp [State.afterReset]
  confirmed := fun _ => rfl
  uncalibrated := fun _ => ⟨rfl, rfl⟩
  jobFrame := by simp [State.afterReset, Job.needsFrame]

theorem config_params_legal : Config.params.legal = true := by
  have hg := Config.gSequenceLengthFrom3.isLt
  have hr := Config.rawBitsFrom1.isLt
  simp only [Params.legal, decide_eq_true_eq]
  simp only [Config.params]
  omega

/-- Settles O45: the parameters of the block are legal, and that is all the reset state needs. -/
theorem invariantAtReset : Obligations.InvariantAtReset := inv_afterReset config_params_legal 0

theorem Inv.pulseReset {s : State} (h : Inv s) : Inv s.pulseReset :=
  { inv_afterReset h.params (s.epoch + 1) with }

/-! ### Commands -/

theorem Inv.signal {s : State} (h : Inv s) (e : Event) : Inv (s.signal e) := { h with }

theorem Inv.startJob {s : State} (h : Inv s) {j : Job} (hj : j.needsFrame = true → s.rdyP = true) :
    Inv (s.startJob j) :=
  { h with jobFrame := fun hn => ⟨hj hn, rfl⟩ }

theorem Inv.requestConfirm {s : State} (h : Inv s) : Inv s.requestConfirm := by
  obtain ⟨-, hs⟩ | ⟨hc, hs⟩ := s.requestConfirm_cases
  · rw [hs]
    exact h
  · rw [hs]
    exact { h with confirmed := fun hd => absurd hd (by simp [hc]) }

theorem CommandEffect.inv {s t : State} (he : CommandEffect s t) (h : Inv s) : Inv t := by
  cases he with
  | refused => exact h.signal .cmdErr
  | results r q m => exact { h with }
  | started j _ hframe => exact h.startJob hframe
  | seqReset => exact { h with sequence := Nat.zero_le _ }
  | confirm => exact h.requestConfirm

/-! ### The bus -/

/-- A host write of a component of a bin below 512. -/
theorem Inv.writeBin {s : State} (h : Inv s) {a : Nat} (hlo : 0x4000 ≤ a) (hhi : a + 4 ≤ 0x5000) (d : Word) :
    Inv (s.writeBytes a (wordBytes d)) :=
  { h with memory := State.writeBin_wf h.memory hlo hhi d }

/-- A host write keeps the invariants, if it reaches no bin beyond the spectrum. -/
theorem Inv.writeReg {s : State} (h : Inv s) {l : Loc} (hl : ∀ k, l = .specRe k ∨ l = .specIm k → k < 512) (d : Word) :
    Inv (writeReg s l d) := by
  cases l with
  | ctrl | event | irqEn | fftThresh | goeThreshLo | goeThreshHi | cuARe | cuAIm | cuBRe | cuBIm => exact { h with }
  | id | param | status | cmd | result | lastChar | seqLen | midpoint | cuRRe | cuRIm | cuSRe | cuSIm | cuMLo | cuMHi
  | grom _ | seq _ | frame _ _ | twrom _ => exact h
  | tone | energyLo _ | energyHi _ | maxAmp | halfAmp | calSpan =>
    simp only [Machine.writeReg]
    split <;> exact { h with }
  | rawFs =>
    simp only [Machine.writeReg]
    split
    case isTrue => exact h
    case isFalse hne => exact { h with rawFs := fun h0 => hne (.inr h0) }
  | specRe k | specIm k =>
    have hk : k < 512 := hl k (by simp)
    simp only [Machine.writeReg]
    split
    case isTrue => exact h.writeBin (by simp only [binAddr]; omega) (by simp only [binAddr]; omega) d
    case isFalse => exact h

theorem Inv.busWrite {s t : State} {off : Half} {lanes : BitVec 4} {d : Word} (h : Inv s)
    (ht : busWrite off lanes d s = .next t) : Inv t := by
  have hresp : Inv { s with resp := .write false } := { h with }
  obtain rfl | ⟨-, he⟩ | ⟨l, hl, rfl⟩ := busWrite_cases ht
  · exact { h with }
  · exact he.inv hresp
  · exact hresp.writeReg (fun k hk => accessLoc_spec hl hk) d

theorem Inv.busRead {s : State} (h : Inv s) (off : Half) (lanes : BitVec 4) : Inv (s.busRead off lanes) := by
  obtain hs | ⟨_, -, hs⟩ | ⟨_, -, hs⟩ := busRead_cases s off lanes
  all_goals
    rw [hs]
    exact { h with }

/-! ### Jobs -/

theorem Inv.runFft {s : State} (h : Inv s) : Inv s.runFft :=
  { h with memory := State.setSpectrum_wf h.memory (length_fft (s.length_frameSamples s.jobFidx)) }

theorem Inv.runGoertzel {s : State} (h : Inv s) : Inv s.runGoertzel := { h with }

theorem Inv.setTone {s : State} (h : Inv s) (p : TonePair) : Inv { s with tone := p } := { h with }

theorem Inv.runFdet {s : State} (h : Inv s) : Inv s.runFdet := h.setTone s.fdetPair

theorem Inv.runGdet {s : State} (h : Inv s) : Inv s.runGdet := h.setTone s.gdetTone

theorem Inv.runSelected {s : State} (h : Inv s) : Inv s.runSelected := by
  unfold State.runSelected
  split
  case h_1 => exact h.runFft.runFdet
  case h_2 => exact h.runGoertzel.runGdet

/-- An appended symbol fills a free place of the sequence (R54, R341). -/
theorem DecodeEffect.inv {s t : State} (he : DecodeEffect s t) (h : Inv s) : Inv t := by
  cases he with
  | noise | multitone | hold _ | overflow _ => exact { h with }
  | accepted sym room =>
    have hcap := h.seqCap_le
    have hlen : (s.seqLen + 1).toNat = s.seqLen.toNat + 1 := by
      rw [BitVec.toNat_add, show (1 : Byte).toNat = 1 from rfl]
      omega
    exact { h with
      memory := State.setSeqChar_wf h.memory (by omega) sym
      sequence := hlen ▸ room }

theorem Inv.runDecode {s : State} (h : Inv s) : Inv s.runDecode :=
  (s.decodeStep_effect s.tone.low.toInt s.tone.high.toInt).inv h

/-- With no job running, no job needs the frame (R245). -/
theorem Inv.endJob {s : State} (h : Inv s) : Inv s.endJob :=
  { h with jobFrame := fun hn => absurd hn (by simp [Job.needsFrame]) }

/-- A release hands the token from the P domain to the channel, and its job ends with it (R246). -/
theorem Inv.releaseToken_endJob {s : State} (h : Inv s) : Inv s.releaseToken.endJob := by
  cases hr : s.rdyP with
  | false =>
    rw [State.releaseToken_notHeld hr]
    exact h.endJob
  | true =>
    obtain ⟨hs, hset, hclr⟩ := h.of_rdyP hr
    rw [State.releaseToken_held hr]
    exact { h with
      token := by simp [hs, hset]
      otherFrame := by simp [hset]
      sameIndex := by simp
      jobFrame := by simp [Job.needsFrame] }

theorem Inv.completeJob {s : State} (h : Inv s) : Inv s.completeJob := by
  unfold State.completeJob
  split
  case h_1 => exact h
  case h_2 => exact h.runFft.endJob
  case h_3 => exact h.runGoertzel.endJob
  case h_4 => exact h.runFdet.endJob
  case h_5 => exact h.runGdet.endJob
  case h_6 => exact h.runDecode.endJob
  case h_7 => exact h.runSelected.runDecode.releaseToken_endJob
  case h_8 => exact h.releaseToken_endJob

/-! ### The sampler and the channel -/

theorem Inv.reportBand {s : State} (h : Inv s) (raw : Half) : Inv (s.reportBand raw) := by
  have hlt := (Config.calBandFn raw).isLt
  simp only [State.reportBand]
  split
  case isTrue => exact h
  case isFalse =>
    exact { h with
      band := by
        simp only [State.signal_band, BitVec.toNat_ofNat]
        omega }

theorem Inv.reportStraddle {s : State} (h : Inv s) (b : Bool) : Inv (s.reportStraddle b) := by
  cases b <;> exact { h with }

theorem Inv.finalise {s : State} (h : Inv s) (raw : Half) (b : Bool) : Inv (s.finalise raw b) := by
  unfold State.finalise
  split
  case isTrue => exact { h with confirmed := fun _ => rfl, uncalibrated := fun hd => nomatch hd }
  case isFalse => exact h

theorem Inv.calTick {s : State} (h : Inv s) (raw v : Half) : Inv (s.calTick raw v) :=
  { ((h.reportBand raw).reportStraddle (s.straddles v)).finalise raw (s.straddles v) with }

/-- A hand-off takes the token only when no one else has it (R243). -/
theorem Inv.handOff {s : State} (h : Inv s) (hc : s.calDone = true) : Inv s.handOff := by
  unfold State.handOff
  split
  case isTrue => exact { h with uncalibrated := fun hd => absurd hd (by simp [hc]) }
  case isFalse hr =>
    obtain ⟨hset, hrdy, hclr⟩ := h.of_not_rdyS (by simpa using hr)
    exact { h with
      token := by simp [hrdy, hclr]
      otherFrame := fun _ => by cases s.activeIdx <;> simp [FrameIx.other]
      sameIndex := by simp [hrdy]
      uncalibrated := fun hd => absurd hd (by simp [hc]) }

theorem Inv.setSample {s : State} (h : Inv s) (f : FrameIx) (n : BitVec 9) (v : Half) : Inv (s.setSample f n.toNat v) :=
  { h with memory := State.setSample_wf h.memory f n.isLt v }

theorem Inv.frameTick {s : State} (h : Inv s) (hc : s.calDone = true) (v : Half) : Inv (s.frameTick v) := by
  have hw := h.setSample s.activeIdx s.fill v
  simp only [State.frameTick]
  split
  case isTrue => exact { hw with uncalibrated := fun hd => absurd hd (by simp [hc]) }
  case isFalse => exact hw.handOff hc

theorem Inv.tick {s : State} (h : Inv s) (raw : Half) : Inv (s.tick raw) := by
  unfold State.tick
  split
  case isTrue hc => exact h.frameTick hc _
  case isFalse => exact h.calTick raw _

/-- The token goes from the channel to the P domain, and no job that needs the frame has waited for it (R244). -/
theorem Inv.deliverSet {s : State} (h : Inv s) (hp : s.setPend = true) : Inv s.deliverSet := by
  obtain ⟨hs, hrdy, hclr⟩ := h.of_setPend hp
  exact { h with
    token := by simp [hs, hclr]
    otherFrame := fun _ => h.otherFrame (.inl hp)
    sameIndex := fun _ => rfl
    jobFrame := fun hn => absurd (h.jobFrame hn).1 (by simp [hrdy]) }

/-- The token comes back to the sampler (R247). -/
theorem Inv.deliverClr {s : State} (h : Inv s) (hp : s.clrPend = true) : Inv s.deliverClr := by
  obtain ⟨-, hset, hrdy⟩ := h.of_clrPend hp
  exact { h with
    token := by simp [hset, hrdy]
    uncalibrated := fun hd => ⟨(h.uncalibrated hd).1, rfl⟩ }

theorem Inv.autoStart {s : State} (h : Inv s) (hen : enabled .autoStart s = true) : Inv s.autoStart := by
  simp only [enabled, Bool.and_eq_true] at hen
  exact h.startJob fun _ => hen.2

/-! ### Every step -/

/-- Every enabled step of R420, taken from a state that meets the invariants, gives a state that meets them. -/
theorem Inv.act {s t : State} {a : Action} (h : Inv s) (hen : enabled a s = true) (ht : act a s = .next t) : Inv t := by
  cases a with
  | tick raw => cases ht; exact h.tick _
  | confirmEdge => cases ht; exact h.requestConfirm
  | deliverSet => cases ht; exact h.deliverSet hen
  | deliverClr => cases ht; exact h.deliverClr hen
  | autoStart => cases ht; exact h.autoStart hen
  | complete => cases ht; exact h.completeJob
  | busRead off lanes => cases ht; exact h.busRead off lanes
  | busWrite off lanes d => exact h.busWrite ht
  | reset => cases ht; exact h.pulseReset

/-- Settles O44: the schedule moves on, which no invariant speaks of, and then an enabled step is taken or none. -/
theorem invariantKept : Obligations.InvariantKept := by
  intro s t h hstep
  obtain ⟨n, rest, ht⟩ := step_cases hstep
  have hsched : Inv { s with draws := n, agenda := rest } := { h with }
  obtain rfl | ⟨a, hen, hact⟩ := ht
  · exact hsched
  · exact hsched.act hen hact

/-! ## Calibration (R34, R158, R235) -/

/-- What a calibrated block keeps until its next reset: `CAL_DONE`, the calibration registers and the front end's state. -/
structure Calibration where
  calDone : Bool
  maxAmp : Half
  halfAmp : Half
  rawFs : Half
  calSpan : Half
  midpoint : Half
  band : BitVec 4
  straddle : Bool
  prevV : Half
  confirmPend : Bool

def State.calibration (s : State) : Calibration where
  calDone := s.calDone
  maxAmp := s.maxAmp
  halfAmp := s.halfAmp
  rawFs := s.rawFs
  calSpan := s.calSpan
  midpoint := s.midpoint
  band := s.band
  straddle := s.straddle
  prevV := s.prevV
  confirmPend := s.confirmPend

theorem State.calibration_eq_iff (s t : State) :
    t.calibration = s.calibration ↔
      t.calDone = s.calDone ∧ t.maxAmp = s.maxAmp ∧ t.halfAmp = s.halfAmp ∧ t.rawFs = s.rawFs ∧
        t.calSpan = s.calSpan ∧ t.midpoint = s.midpoint ∧ t.band = s.band ∧ t.straddle = s.straddle ∧
        t.prevV = s.prevV ∧ t.confirmPend = s.confirmPend := by
  simp only [State.calibration, Calibration.mk.injEq]

/-! ### Commands and the bus -/

/-- Once calibrated, a confirmation has no effect (R241, R370). -/
theorem State.requestConfirm_calibrated {s : State} (hc : s.calDone = true) : s.requestConfirm = s := by
  simp [State.requestConfirm, hc]

theorem CommandEffect.calibration_eq {s t : State} (he : CommandEffect s t) (hc : s.calDone = true) :
    t.calibration = s.calibration := by
  cases he with
  | refused | results _ _ _ | started _ _ _ | seqReset => rfl
  | confirm => rw [State.requestConfirm_calibrated hc]

/-- A write of a calibration register is ignored once calibrated (R158); no other register bears on calibration. -/
theorem writeReg_calibration {s : State} (hc : s.calDone = true) (l : Loc) (d : Word) :
    (writeReg s l d).calibration = s.calibration := by
  cases l with
  | maxAmp | halfAmp | rawFs | calSpan => simp [writeReg, hc]
  | tone | energyLo _ | energyHi _ | specRe _ | specIm _ =>
    simp only [writeReg]
    split <;> rfl
  | ctrl | event | irqEn | fftThresh | goeThreshLo | goeThreshHi | cuARe | cuAIm | cuBRe | cuBIm | id | param | status
  | cmd | result | lastChar | seqLen | midpoint | cuRRe | cuRIm | cuSRe | cuSIm | cuMLo | cuMHi | grom _ | seq _
  | frame _ _ | twrom _ => rfl

theorem busWrite_calibration {s t : State} {off : Half} {lanes : BitVec 4} {d : Word} (hc : s.calDone = true)
    (ht : busWrite off lanes d s = .next t) : t.calibration = s.calibration := by
  obtain rfl | ⟨-, he⟩ | ⟨l, -, rfl⟩ := busWrite_cases ht
  · rfl
  · exact he.calibration_eq hc
  · exact writeReg_calibration (s := { s with resp := .write false }) hc l d

theorem State.busRead_calibration (s : State) (off : Half) (lanes : BitVec 4) :
    (s.busRead off lanes).calibration = s.calibration := by
  obtain hs | ⟨_, -, hs⟩ | ⟨_, -, hs⟩ := busRead_cases s off lanes
  all_goals
    rw [hs]
    rfl

/-! ### Jobs -/

@[simp] theorem State.endJob_calibration (s : State) : s.endJob.calibration = s.calibration := rfl

@[simp] theorem State.runFft_calibration (s : State) : s.runFft.calibration = s.calibration := rfl

@[simp] theorem State.runGoertzel_calibration (s : State) : s.runGoertzel.calibration = s.calibration := rfl

@[simp] theorem State.runFdet_calibration (s : State) : s.runFdet.calibration = s.calibration := by
  simp [State.calibration]

@[simp] theorem State.runGdet_calibration (s : State) : s.runGdet.calibration = s.calibration := rfl

@[simp] theorem State.runSelected_calibration (s : State) : s.runSelected.calibration = s.calibration := by
  unfold State.runSelected
  split
  case h_1 => simp
  case h_2 => simp

theorem DecodeEffect.calibration_eq {s t : State} (he : DecodeEffect s t) : t.calibration = s.calibration := by
  cases he with
  | noise | multitone | hold _ | accepted _ _ | overflow _ => rfl

@[simp] theorem State.runDecode_calibration (s : State) : s.runDecode.calibration = s.calibration :=
  (s.decodeStep_effect s.tone.low.toInt s.tone.high.toInt).calibration_eq

@[simp] theorem State.releaseToken_calibration (s : State) : s.releaseToken.calibration = s.calibration := by
  unfold State.releaseToken
  split <;> rfl

theorem State.completeJob_calibration (s : State) : s.completeJob.calibration = s.calibration := by
  unfold State.completeJob
  split
  case h_1 => rfl
  case h_2 => simp [completeFftRun]
  case h_3 => simp [completeGoeRun]
  case h_4 => simp [completeFdet]
  case h_5 => simp [completeGdet]
  case h_6 => simp [completeDecode]
  case h_7 => simp [completeProcess]
  case h_8 => simp [completeRelease]

/-! ### The sampler -/

theorem State.handOff_calibration (s : State) : s.handOff.calibration = s.calibration := by
  unfold State.handOff
  split <;> rfl

theorem State.frameTick_calibration (s : State) (v : Half) : (s.frameTick v).calibration = s.calibration := by
  simp only [State.frameTick]
  split
  case isTrue => rfl
  case isFalse => exact State.handOff_calibration _

/-- Once calibrated, a tick is a frame tick (R236). -/
theorem State.tick_calibration {s : State} (hc : s.calDone = true) (raw : Half) :
    (s.tick raw).calibration = s.calibration := by
  rw [State.tick, if_pos hc]
  exact s.frameTick_calibration _

/-! ### Every step but a reset -/

/-- Once calibrated, a step other than a reset keeps the whole calibration. -/
theorem act_calibration {s t : State} {a : Action} (hc : s.calDone = true) (ha : a ≠ .reset) (ht : act a s = .next t) :
    t.calibration = s.calibration := by
  cases a with
  | tick raw => cases ht; exact State.tick_calibration hc _
  | confirmEdge => cases ht; exact congrArg State.calibration (State.requestConfirm_calibrated hc)
  | deliverSet | deliverClr | autoStart => cases ht; rfl
  | complete => cases ht; exact s.completeJob_calibration
  | busRead off lanes => cases ht; exact s.busRead_calibration off lanes
  | busWrite off lanes d => exact busWrite_calibration hc ht
  | reset => exact absurd rfl ha

/-- Settles O48: the fields it names are those of `State.calibration`, which no step but a reset changes. -/
theorem calibrationIsFinal : Obligations.CalibrationIsFinal := by
  intro s t a ha ht hc
  obtain ⟨hdone, hrest⟩ := (State.calibration_eq_iff s t).mp (act_calibration hc ha ht)
  exact ⟨hdone.trans hc, hrest⟩

end Sys2Proof.Machine

namespace Sys2Proof.Machine

/-! ## The bus (R103-R105, R141, R170)

Which offsets name a word, and of which kind; then what a read and what a write of a word of each kind does. -/

/-! ### The register map (R141) -/

theorem accessLoc_eq_some_iff {off : Half} {lanes : BitVec 4} {l : Loc} :
    accessLoc off lanes = some l ↔ off.toNat % 4 = 0 ∧ lanes = 0xF#4 ∧ locOf off.toNat = some l := by
  simp [accessLoc, and_assoc]

/-- The registers that stand alone lie below the windows. -/
theorem registerMap_lt : ∀ p ∈ registerMap, p.1 < 0x80 := by decide

theorem locOf_eq_windowLoc {o : Nat} (h : 0x80 ≤ o) : locOf o = windowLoc o := by
  have hnone : registerMap.lookup o = none := by
    refine List.lookup_eq_none_iff.mpr fun p hp => ?_
    have := registerMap_lt p hp
    simp only [bne_iff_ne, ne_eq]
    omega
  simp only [locOf, hnone]

/-- The words that an offset of each window can name, with the window's bounds (R141). -/
inductive WindowWord (o : Nat) : Loc → Prop where
  | energyLo (b : Nat) (lo : 0x080 ≤ o) (hi : o < 0x0C0) : WindowWord o (.energyLo b)
  | energyHi (b : Nat) (lo : 0x080 ≤ o) (hi : o < 0x0C0) : WindowWord o (.energyHi b)
  | grom (b : Nat) (lo : 0x0C0 ≤ o) (hi : o < 0x0E0) : WindowWord o (.grom b)
  | seq (i : Nat) (lo : 0x400 ≤ o) (hi : o < 0x800) : WindowWord o (.seq i)
  | frameA (n : Nat) (lo : 0x1000 ≤ o) (hi : o < 0x1800) : WindowWord o (.frame .a n)
  | frameB (n : Nat) (lo : 0x2000 ≤ o) (hi : o < 0x2800) : WindowWord o (.frame .b n)
  | specRe (k : Nat) (lo : 0x4000 ≤ o) (hi : o < 0x5000) : WindowWord o (.specRe k)
  | specIm (k : Nat) (lo : 0x4000 ≤ o) (hi : o < 0x5000) : WindowWord o (.specIm k)
  | twrom (k : Nat) (lo : 0x8000 ≤ o) (hi : o < 0x8800) : WindowWord o (.twrom k)

theorem windowLoc_word {o : Nat} {l : Loc} (h : windowLoc o = some l) : WindowWord o l := by
  unfold windowLoc at h
  split_ifs at h with hen he hg hs ha hb hsp he' ht
  all_goals obtain rfl := Option.some.inj h
  · exact .energyLo _ hen.1 hen.2
  · exact .energyHi _ hen.1 hen.2
  · exact .grom _ hg.1 hg.2
  · exact .seq _ hs.1 hs.2
  · exact .frameA _ ha.1 ha.2
  · exact .frameB _ hb.1 hb.2
  · exact .specRe _ hsp.1 hsp.2
  · exact .specIm _ hsp.1 hsp.2
  · exact .twrom _ ht.1 ht.2

/-- A mapped word is a register of the list or a word of a window. -/
theorem locOf_cases {o : Nat} {l : Loc} (h : locOf o = some l) : (o, l) ∈ registerMap ∨ WindowWord o l := by
  unfold locOf at h
  split at h
  case h_1 l' hlook =>
    obtain ⟨pre, post, hmap, -⟩ := List.lookup_eq_some_iff.mp hlook
    obtain rfl := Option.some.inj h
    exact .inl (by simp [hmap])
  case h_2 => exact .inr (windowLoc_word h)

theorem windowLoc_eq_none_iff {o : Nat} :
    windowLoc o = none ↔
      o < 0x080 ∨ (0x0E0 ≤ o ∧ o < 0x400) ∨ (0x800 ≤ o ∧ o < 0x1000) ∨ (0x1800 ≤ o ∧ o < 0x2000)
        ∨ (0x2800 ≤ o ∧ o < 0x4000) ∨ (0x5000 ≤ o ∧ o < 0x8000) ∨ 0x8800 ≤ o := by
  unfold windowLoc
  split_ifs
  all_goals
    simp only [false_iff, true_iff]
    omega

/-- The aligned offsets below the windows that name no register are 0x04C, 0x078 and 0x07C. -/
theorem locOf_register_eq_none_iff : ∀ i < 32, locOf (4 * i) = none ↔ i = 19 ∨ i = 30 ∨ i = 31 := by decide

/-- The offsets that R141 leaves out of the map (R170). -/
def Unmapped (o : Nat) : Prop :=
  o = 0x04C ∨ o = 0x078 ∨ o = 0x07C ∨ (0x0E0 ≤ o ∧ o < 0x400) ∨ (0x800 ≤ o ∧ o < 0x1000)
    ∨ (0x1800 ≤ o ∧ o < 0x2000) ∨ (0x2800 ≤ o ∧ o < 0x4000) ∨ (0x5000 ≤ o ∧ o < 0x8000) ∨ 0x8800 ≤ o

theorem locOf_eq_none_iff {o : Nat} (h4 : o % 4 = 0) : locOf o = none ↔ Unmapped o := by
  unfold Unmapped
  obtain hlow | hhigh := Nat.lt_or_ge o 0x80
  · have hreg := locOf_register_eq_none_iff (o / 4) (by omega)
    rw [Nat.mul_div_cancel' (Nat.dvd_of_mod_eq_zero h4)] at hreg
    rw [hreg]
    omega
  · rw [locOf_eq_windowLoc hhigh, windowLoc_eq_none_iff]
    omega

/-- The refused accesses: misaligned, sub-word or unmapped (R103, R141, R170). -/
theorem accessLoc_eq_none_iff {off : Half} {lanes : BitVec 4} :
    accessLoc off lanes = none ↔ off.toNat % 4 ≠ 0 ∨ lanes ≠ 0xF#4 ∨ Unmapped off.toNat := by
  unfold accessLoc
  split
  case isTrue h => simp [h, locOf_eq_none_iff h.1]
  case isFalse h =>
    rw [not_and_or] at h
    simp only [true_iff]
    tauto

/-! ### Every access is answered, and the answer tells a refused access from the others (R103, R407) -/

theorem runCuCommand_answers (f : State → State) (s : State) : ∃ t, runCuCommand f s = .next t := by
  unfold runCuCommand
  split <;> exact ⟨_, rfl⟩

theorem runJobCommand_answers (j : Job) (s : State) : ∃ t, runJobCommand j s = .next t := by
  unfold runJobCommand
  split <;> exact ⟨_, rfl⟩

theorem runJobFrameCommand_answers (j : Job) (s : State) : ∃ t, runJobFrameCommand j s = .next t := by
  unfold runJobFrameCommand
  split <;> exact ⟨_, rfl⟩

/-- Every command answers a next state, by its class (R367, R400). -/
theorem exec_answers (i : Instr) (s : State) : ∃ t, exec i s = .next t := by
  cases i with
  | nop | seqReset | calConfirm => exact ⟨_, rfl⟩
  | cadd | csub | cmul _ | cmag2 | cmag | cpolar _ | cbfly _ =>
    simp only [exec, execCadd, execCsub, execCmul, execCmag2, execCmag, execCpolar, execCbfly]
    exact runCuCommand_answers _ s
  | fdet | gdet | decode => exact runJobCommand_answers _ s
  | fftRun | goeRun | process | release => exact runJobFrameCommand_answers _ s

theorem CommandEffect.resp_eq {s t : State} (he : CommandEffect s t) : t.resp = s.resp := by
  cases he with
  | refused | results _ _ _ | started _ _ _ | seqReset => rfl
  | confirm => obtain ⟨-, hs⟩ | ⟨-, hs⟩ := s.requestConfirm_cases <;> rw [hs]

/-- A command word, legal or not, leaves the answer of the write that carries it. -/
theorem cmdWrite_answers (w : Word) (s : State) : ∃ t, cmdWrite w s = .next t ∧ t.resp = s.resp := by
  unfold cmdWrite
  split
  case h_1 i _ =>
    obtain ⟨t, ht⟩ := exec_answers i s
    exact ⟨t, ht, (exec_effect ht).resp_eq⟩
  case h_2 => exact ⟨_, rfl, rfl⟩

@[simp] theorem writeReg_resp (s : State) (l : Loc) (d : Word) : (writeReg s l d).resp = s.resp := by
  cases l with
  | tone | energyLo _ | energyHi _ | specRe _ | specIm _ | maxAmp | halfAmp | rawFs | calSpan =>
    simp only [writeReg]
    split <;> rfl
  | ctrl | event | irqEn | fftThresh | goeThreshLo | goeThreshHi | cuARe | cuAIm | cuBRe | cuBIm | id | param | status
  | cmd | result | lastChar | seqLen | midpoint | cuRRe | cuRIm | cuSRe | cuSIm | cuMLo | cuMHi | grom _ | seq _
  | frame _ _ | twrom _ => rfl

theorem State.busRead_refused {s : State} {off : Half} {lanes : BitVec 4} (hl : accessLoc off lanes = none) :
    s.busRead off lanes = { s with resp := .read 0 true } := by
  simp only [State.busRead, hl]

theorem State.busRead_mapped {s : State} {off : Half} {lanes : BitVec 4} {l : Loc} (hl : accessLoc off lanes = some l) :
    s.busRead off lanes =
      if jobWrites s l then { s with resp := .read (Config.busyRead s.draws) false, draws := s.draws + 1 }
      else { s with resp := .read (readVal s l) false } := by
  simp only [State.busRead, hl]

theorem busWrite_refused {off : Half} {lanes : BitVec 4} (hl : accessLoc off lanes = none) (d : Word) (s : State) :
    busWrite off lanes d s = .next { s with resp := .write true } := by
  simp only [busWrite, hl]

theorem State.busRead_mapped_resp {s : State} {off : Half} {lanes : BitVec 4} {l : Loc}
    (hl : accessLoc off lanes = some l) : ∃ data, (s.busRead off lanes).resp = .read data false := by
  rw [State.busRead_mapped hl]
  split <;> exact ⟨_, rfl⟩

theorem busWrite_mapped_resp {off : Half} {lanes : BitVec 4} {l : Loc} (hl : accessLoc off lanes = some l) (d : Word)
    (s : State) : ∃ t, busWrite off lanes d s = .next t ∧ t.resp = .write false := by
  obtain ⟨-, rfl, -⟩ := accessLoc_eq_some_iff.mp hl
  by_cases hc : l = .cmd
  case pos =>
    obtain ⟨t, ht, hresp⟩ := cmdWrite_answers d { s with resp := .write false }
    refine ⟨t, ?_, hresp⟩
    simpa only [busWrite, hl, hc] using ht
  case neg => exact ⟨_, busWrite_of d hl hc, writeReg_resp _ l d⟩

/-- Settles O51: an access is refused exactly if it reaches no word of the map. -/
theorem busRefusals : Obligations.BusRefusals := by
  intro s off lanes d
  refine ⟨fun hrefused => ?_, fun hmapped => ?_⟩
  · have hl := accessLoc_eq_none_iff.mpr hrefused
    exact ⟨congrArg Host.Outcome.next (State.busRead_refused hl), busWrite_refused hl d s⟩
  · obtain ⟨l, hl⟩ := Option.ne_none_iff_exists'.mp (mt accessLoc_eq_none_iff.mp hmapped)
    obtain ⟨data, hdata⟩ := State.busRead_mapped_resp (s := s) hl
    exact ⟨⟨_, data, rfl, hdata⟩, busWrite_mapped_resp hl d s⟩

/-! ### Reads (R104, R364) -/

/-- Of the registers that stand alone, the running job writes only `TONE` (R360). -/
theorem jobWrites_register (s : State) : ∀ p ∈ registerMap,
    jobWrites s p.2 = true ↔ p.1 = 0x020 ∧ (s.job = .fdet ∨ s.job = .gdet ∨ s.job = .process) := by
  simp [registerMap, jobWrites, or_assoc]

/-- The words that the running job writes, by their offsets (R360, R364). -/
theorem jobWrites_iff {s : State} {o : Nat} {l : Loc} (hl : locOf o = some l) :
    jobWrites s l = true ↔
      (o = 0x020 ∧ (s.job = .fdet ∨ s.job = .gdet ∨ s.job = .process)) ∨
        (0x080 ≤ o ∧ o < 0x0C0 ∧ (s.job = .goeRun ∨ s.job = .process ∧ s.jobAlg = .goertzel)) ∨
        (0x4000 ≤ o ∧ o < 0x5000 ∧ (s.job = .fftRun ∨ s.job = .process ∧ s.jobAlg = .fft)) := by
  obtain hreg | hwin := locOf_cases hl
  · have hlt := registerMap_lt _ hreg
    rw [jobWrites_register s _ hreg]
    grind
  · cases hwin with
    | energyLo _ lo hi | energyHi _ lo hi | specRe _ lo hi | specIm _ lo hi =>
      simp only [jobWrites, Bool.or_eq_true, Bool.and_eq_true, decide_eq_true_eq]
      grind
    | grom _ lo hi | seq _ lo hi | frameA _ lo hi | frameB _ lo hi | twrom _ lo hi =>
      simp only [jobWrites]
      grind

theorem readVal_resp (s : State) (l : Loc) (r : BusResponse) : readVal { s with resp := r } l = readVal s l := rfl

theorem jobWrites_resp (s : State) (l : Loc) (r : BusResponse) : jobWrites { s with resp := r } l = jobWrites s l := rfl

/-- A read draws no free value unless the running job writes the word, and then a second one answers the same. -/
theorem State.busRead_busRead {s : State} {off : Half} {lanes : BitVec 4}
    (h : ∀ l, accessLoc off lanes = some l → jobWrites s l = false) :
    (s.busRead off lanes).busRead off lanes = s.busRead off lanes := by
  cases hl : accessLoc off lanes with
  | none => simp only [State.busRead_refused hl]
  | some l => simp [State.busRead_mapped hl, h l hl, readVal_resp, jobWrites_resp]

theorem performAll_busRead_twice (s : State) (off : Half) (lanes : BitVec 4) :
    performAll [.busRead off lanes, .busRead off lanes] s = .next ((s.busRead off lanes).busRead off lanes) := rfl

/-- Settles O52: only a word that the running job writes answers a free value. -/
theorem readsChangeNoRegister : Obligations.ReadsChangeNoRegister := by
  intro s off lanes
  refine ⟨⟨_, rfl, ?_⟩, fun hfree => ?_, fun hwritten h4 hlanes => ?_⟩
  · obtain hs | ⟨_, -, hs⟩ | ⟨_, -, hs⟩ := busRead_cases s off lanes
    all_goals rw [hs]
  · rw [performAll_busRead_twice, State.busRead_busRead fun l hl => ?_]
    · rfl
    · obtain ⟨-, -, hloc⟩ := accessLoc_eq_some_iff.mp hl
      simpa only [Bool.not_eq_true] using mt (jobWrites_iff hloc).mp hfree
  · have hmapped : locOf off.toNat ≠ none := by
      rw [ne_eq, locOf_eq_none_iff h4, Unmapped]
      omega
    obtain ⟨l, hloc⟩ := Option.ne_none_iff_exists'.mp hmapped
    have hl := accessLoc_eq_some_iff.mpr ⟨h4, hlanes, hloc⟩
    refine ⟨Config.busyRead s.draws, congrArg Host.Outcome.next ?_⟩
    rw [State.busRead_mapped hl, if_pos ((jobWrites_iff hloc).mpr hwritten)]

/-! ### Writes (R105) -/

/-- The words of access `RO` (R141). -/
def Loc.readOnly : Loc → Bool
  | .id | .param | .status | .result | .lastChar | .seqLen | .midpoint | .cuRRe | .cuRIm | .cuSRe | .cuSIm | .cuMLo
  | .cuMHi | .grom _ | .seq _ | .frame _ _ | .twrom _ => true
  | .ctrl | .event | .irqEn | .cmd | .tone | .fftThresh | .goeThreshLo | .goeThreshHi | .maxAmp | .halfAmp | .rawFs
  | .calSpan | .cuARe | .cuAIm | .cuBRe | .cuBIm | .energyLo _ | .energyHi _ | .specRe _ | .specIm _ => false

theorem writeReg_readOnly {l : Loc} (h : l.readOnly = true) (s : State) (d : Word) : writeReg s l d = s := by
  cases l with
  | id | param | status | result | lastChar | seqLen | midpoint | cuRRe | cuRIm | cuSRe | cuSIm | cuMLo | cuMHi
  | grom _ | seq _ | frame _ _ | twrom _ => rfl
  | ctrl | event | irqEn | cmd | tone | fftThresh | goeThreshLo | goeThreshHi | maxAmp | halfAmp | rawFs | calSpan
  | cuARe | cuAIm | cuBRe | cuBIm | energyLo _ | energyHi _ | specRe _ | specIm _ => cases h

/-- The read-only registers that stand alone (R141). -/
theorem readOnly_register : ∀ p ∈ registerMap,
    p.1 ∈ [0x000, 0x004, 0x00C, 0x01C, 0x024, 0x028, 0x048] ∨ 0x060 ≤ p.1 → p.2.readOnly = true := by decide

/-- The aligned offsets that R141 lists as read-only name read-only words. -/
theorem exists_readOnly_of_offset {o : Nat} (h4 : o % 4 = 0)
    (ho : o ∈ [0x000, 0x004, 0x00C, 0x01C, 0x024, 0x028, 0x048] ∨ (0x060 ≤ o ∧ o < 0x078) ∨ (0x0C0 ≤ o ∧ o < 0x0E0)
      ∨ (0x400 ≤ o ∧ o < 0x800) ∨ (0x1000 ≤ o ∧ o < 0x1800) ∨ (0x2000 ≤ o ∧ o < 0x2800)
      ∨ (0x8000 ≤ o ∧ o < 0x8800)) : ∃ l, locOf o = some l ∧ l.readOnly = true := by
  have hmapped : locOf o ≠ none := by
    rw [ne_eq, locOf_eq_none_iff h4, Unmapped]
    simp only [List.mem_cons, List.not_mem_nil, or_false] at ho
    omega
  obtain ⟨l, hl⟩ := Option.ne_none_iff_exists'.mp hmapped
  refine ⟨l, hl, ?_⟩
  obtain hreg | hwin := locOf_cases hl
  · have hlt := registerMap_lt _ hreg
    exact readOnly_register _ hreg (ho.imp_right fun _ => by omega)
  · cases hwin with
    | grom _ lo hi | seq _ lo hi | frameA _ lo hi | frameB _ lo hi | twrom _ lo hi => rfl
    | energyLo _ lo hi | energyHi _ lo hi | specRe _ lo hi | specIm _ lo hi =>
      simp only [List.mem_cons, List.not_mem_nil, or_false] at ho
      omega

/-- A full-width write of a word other than `CMD`, from what `writeReg` makes of it. -/
theorem act_busWrite_of {s t : State} {off : Half} {l : Loc} {d : Word} (hl : accessLoc off 0xF#4 = some l)
    (hc : l ≠ .cmd) (ht : writeReg { s with resp := .write false } l d = t) :
    act (.busWrite off 0xF#4 d) s = .next t :=
  ht ▸ busWrite_of d hl hc

/-- Once calibrated, a write of a calibration register is ignored (R158). -/
theorem calibrationWrite_ignored {s : State} {off : Half} {l : Loc} (hc : s.calDone = true)
    (hl : accessLoc off 0xF#4 = some l) (hcal : l = .maxAmp ∨ l = .halfAmp ∨ l = .rawFs ∨ l = .calSpan) (d : Word) :
    act (.busWrite off 0xF#4 d) s = .next { s with resp := .write false } := by
  obtain rfl | rfl | rfl | rfl := hcal
  all_goals exact act_busWrite_of hl nofun (by simp [writeReg, hc])

/-- A write of 0 to `RAW_FS` is ignored (R40, R157). -/
theorem writeReg_rawFs_zero {d : Word} (h : lowHalf d = 0) (s : State) : writeReg s .rawFs d = s := by
  simp [writeReg, h]

/-- Until calibration ends, the calibration registers take the low half of the word written (R157, R158). -/
theorem calibrationWrites {s : State} (hc : s.calDone = false) (d : Word) :
    act (.busWrite 0x038#16 0xF#4 d) s = .next { s with maxAmp := lowHalf d, resp := .write false } ∧
      act (.busWrite 0x03C#16 0xF#4 d) s = .next { s with halfAmp := lowHalf d, resp := .write false } ∧
      (lowHalf d ≠ 0 →
        act (.busWrite 0x040#16 0xF#4 d) s = .next { s with rawFs := lowHalf d, resp := .write false }) ∧
      act (.busWrite 0x044#16 0xF#4 d) s = .next { s with calSpan := lowHalf d, resp := .write false } := by
  refine ⟨act_busWrite_of (l := .maxAmp) rfl nofun ?_, act_busWrite_of (l := .halfAmp) rfl nofun ?_,
    fun hd => act_busWrite_of (l := .rawFs) rfl nofun ?_, act_busWrite_of (l := .calSpan) rfl nofun ?_⟩
  case refine_3 => exact if_neg (not_or.mpr ⟨by simp [hc], hd⟩)
  all_goals simp [writeReg, hc]

/-- A write of a read-only word has no effect (R105, R141). -/
theorem readOnlyWrite_ignored {off : Half} {l : Loc} (hl : accessLoc off 0xF#4 = some l) (hro : l.readOnly = true)
    (d : Word) (s : State) : act (.busWrite off 0xF#4 d) s = .next { s with resp := .write false } :=
  act_busWrite_of hl (fun hc => nomatch hc ▸ hro) (writeReg_readOnly hro _ d)

/-- Settles O54: each register's write is its equation of `writeReg`; the calibration registers and the read-only words
have their lemmas above. -/
theorem controlWrites : Obligations.ControlWrites := by
  intro s d
  refine ⟨?ctrl, ?irqEn, ?fftThresh, ?goeThreshLo, ?goeThreshHi, fun hc => calibrationWrites hc d, ?rawFsZero,
    ?calibrated, ?cuARe, ?cuAIm, ?cuBRe, ?cuBIm, ?readOnly⟩
  case ctrl => exact act_busWrite_of (l := .ctrl) rfl nofun rfl
  case irqEn =>
    refine act_busWrite_of (l := .irqEn) rfl nofun ?_
    simp only [writeReg, BitVec.setWidth_eq_extractLsb' (show 9 ≤ 32 by decide)]
  case fftThresh => exact act_busWrite_of (l := .fftThresh) rfl nofun rfl
  case goeThreshLo => exact act_busWrite_of (l := .goeThreshLo) rfl nofun rfl
  case goeThreshHi => exact act_busWrite_of (l := .goeThreshHi) rfl nofun rfl
  case rawFsZero => exact fun hd => act_busWrite_of (l := .rawFs) rfl nofun (writeReg_rawFs_zero hd _)
  case calibrated =>
    intro hc
    simp only [List.forall_mem_cons]
    exact ⟨calibrationWrite_ignored hc (l := .maxAmp) rfl (by simp) d,
      calibrationWrite_ignored hc (l := .halfAmp) rfl (by simp) d,
      calibrationWrite_ignored hc (l := .rawFs) rfl (by simp) d,
      calibrationWrite_ignored hc (l := .calSpan) rfl (by simp) d, nofun⟩
  case cuARe => exact act_busWrite_of (l := .cuARe) rfl nofun rfl
  case cuAIm => exact act_busWrite_of (l := .cuAIm) rfl nofun rfl
  case cuBRe => exact act_busWrite_of (l := .cuBRe) rfl nofun rfl
  case cuBIm => exact act_busWrite_of (l := .cuBIm) rfl nofun rfl
  case readOnly =>
    intro off o h4 ho
    obtain ⟨l, hl, hro⟩ := exists_readOnly_of_offset h4 ho
    exact readOnlyWrite_ignored (accessLoc_eq_some_iff.mpr ⟨h4, rfl, hl⟩) hro d s

end Sys2Proof.Machine

namespace Sys2Proof

/-! ## The command word (R171-R173)

The decoder and the rows of the opcode map both turn out to say the same of the three fields of a word; the statements
about words follow from that. -/

/-! ### The fields of a word (R171) -/

/-- A word is its three fields. -/
theorem word_of_fields (w : Word) : w.extractLsb' 24 8 ++ (w.extractLsb' 8 16 ++ w.extractLsb' 0 8) = w := by
  rw [BitVec.extractLsb'_append_extractLsb'_eq_extractLsb' (by decide),
    BitVec.extractLsb'_append_extractLsb'_eq_extractLsb' (by decide)]
  exact BitVec.extractLsb'_eq_self

theorem fieldReserved_append (res : Byte) (arg : Half) (op : Byte) : fieldReserved (res ++ (arg ++ op)) = res.toNat :=
  congrArg BitVec.toNat (BitVec.extractLsb'_append_eq_left (w' := 24))

theorem fieldArg_append (res : Byte) (arg : Half) (op : Byte) : fieldArg (res ++ (arg ++ op)) = arg.toNat :=
  congrArg BitVec.toNat
    ((BitVec.extractLsb'_append_eq_of_add_le (by decide)).trans (BitVec.extractLsb'_append_eq_left (w' := 8)))

theorem fieldOp_append (res : Byte) (arg : Half) (op : Byte) : fieldOp (res ++ (arg ++ op)) = op.toNat :=
  congrArg BitVec.toNat ((BitVec.extractLsb'_append_eq_of_add_le (by decide)).trans BitVec.extractLsb'_append_eq_right)

/-- The bytes of a word, lane 0 first, make the word (R102). -/
theorem decodeBytes_lanesOfWord {w : Word} {i : Instr} (h : decode w = .ok i) (rest : List Byte) :
    decodeBytes (lanesOfWord w ++ rest) = .ok (i, rest) := by
  have hw : wordOfLanes (w.extractLsb' 0 8) (w.extractLsb' 8 8) (w.extractLsb' 16 8) (w.extractLsb' 24 8) = w :=
    Machine.wordBytes_join w
  simp only [lanesOfWord, List.cons_append, List.nil_append, decodeBytes, hw, h]

theorem word_toNat (w : Word) : w.toNat = (fieldReserved w * 65536 + fieldArg w) * 256 + fieldOp w := by
  have := w.isLt
  simp only [fieldReserved, fieldArg, fieldOp, BitVec.extractLsb'_toNat, Nat.shiftRight_eq_div_pow]
  omega

/-- `(ARG << 8) | OP` is the word with these fields and no reserved bit (R171, R175). -/
theorem eq_ofNat_iff_fields {w : Word} {arg op : Nat} (harg : arg < 65536) (hop : op < 256) :
    BitVec.ofNat 32 (arg * 256 + op) = w ↔ fieldReserved w = 0 ∧ fieldArg w = arg ∧ fieldOp w = op := by
  have ha : fieldArg w < 65536 := BitVec.isLt _
  have ho : fieldOp w < 256 := BitVec.isLt _
  rw [← BitVec.toNat_inj, BitVec.toNat_ofNat, word_toNat w]
  omega

/-! ### The fields of a command (R171, R172) -/

/-- The bits of `ARG` that an opcode uses, from bit 0: `SH`, `K`, or none (R171). -/
def argBits (op : Nat) : Nat := if op = 0x03 then 6 else if op = 0x06 ∨ op = 0x07 then 9 else 0

/-- The opcodes of the map, in the table's order. -/
def opcodes : List Nat :=
  [0x00, 0x01, 0x02, 0x03, 0x04, 0x05, 0x06, 0x07, 0x10, 0x11, 0x12, 0x13, 0x14, 0x15, 0x16, 0x20, 0x21]

theorem opcodes_lt : ∀ op ∈ opcodes, op < 256 := by decide

theorem opcodes_range : ∀ op ∈ opcodes, op < 0x08 ∨ (0x10 ≤ op ∧ op < 0x17) ∨ op = 0x20 ∨ op = 0x21 := by decide

theorem Instr.opcode_mem (i : Instr) : i.opcode ∈ opcodes := by
  cases i <;> simp [Instr.opcode, opcodes]

theorem Instr.opcode_lt (i : Instr) : i.opcode < 256 := opcodes_lt _ i.opcode_mem

/-- A command is well formed if its argument fits the bits that its opcode uses. -/
theorem Instr.wellFormed_iff (i : Instr) : i.wellFormed = true ↔ i.argument < 2 ^ argBits i.opcode := by
  cases i with
  | cmul _ | cpolar _ | cbfly _ => exact decide_eq_true_iff
  | nop | cadd | csub | cmag2 | cmag | fftRun | goeRun | fdet | gdet | decode | process | release | seqReset
  | calConfirm => decide

theorem Instr.argument_lt {i : Instr} (h : i.wellFormed = true) : i.argument < 65536 :=
  (i.wellFormed_iff.mp h).trans_le (by simp only [argBits]; split_ifs <;> decide)

/-- The word of a well-formed command is the one with its fields. -/
theorem encode_eq_iff {i : Instr} (h : i.wellFormed = true) (w : Word) :
    encode i = w ↔ fieldReserved w = 0 ∧ fieldArg w = i.argument ∧ fieldOp w = i.opcode :=
  eq_ofNat_iff_fields (Instr.argument_lt h) i.opcode_lt

/-! ### The decoder (R171-R173) -/

theorem decodePlain_eq_ok {op arg : Nat} {i j : Instr} (h : decodePlain op arg i = .ok j) : arg = 0 ∧ i = j := by
  unfold decodePlain at h
  split at h
  case isTrue harg => exact ⟨harg, Except.ok.inj h⟩
  case isFalse => cases h

theorem decodeShift_eq_ok {op arg : Nat} {i : Nat → Instr} {j : Instr} (h : decodeShift op arg i = .ok j) :
    arg < 64 ∧ i arg = j := by
  unfold decodeShift at h
  split at h
  case isTrue harg => exact ⟨harg, Except.ok.inj h⟩
  case isFalse => cases h

theorem decodeIndex_eq_ok {op arg : Nat} {i : Nat → Instr} {j : Instr} (h : decodeIndex op arg i = .ok j) :
    arg < 512 ∧ i arg = j := by
  unfold decodeIndex at h
  split at h
  case isTrue harg => exact ⟨harg, Except.ok.inj h⟩
  case isFalse => cases h

/-- What the opcode map accepts: the opcode and the argument of a well-formed command. -/
theorem decodeOp_eq_ok_iff {op arg : Nat} {i : Instr} :
    decodeOp op arg = .ok i ↔ i.wellFormed = true ∧ i.argument = arg ∧ i.opcode = op := by
  constructor
  · intro h
    unfold decodeOp at h
    split at h
    case h_4 =>
      obtain ⟨harg, rfl⟩ := decodeShift_eq_ok h
      exact ⟨decide_eq_true harg, rfl, rfl⟩
    case h_7 | h_8 =>
      obtain ⟨harg, rfl⟩ := decodeIndex_eq_ok h
      exact ⟨decide_eq_true harg, rfl, rfl⟩
    case h_18 => cases h
    all_goals
      obtain ⟨rfl, rfl⟩ := decodePlain_eq_ok h
      exact ⟨rfl, rfl, rfl⟩
  · rintro ⟨hwf, rfl, rfl⟩
    cases i with
    | cmul _ | cpolar _ | cbfly _ => exact if_pos (of_decide_eq_true hwf)
    | nop | cadd | csub | cmag2 | cmag | fftRun | goeRun | fdet | gdet | decode | process | release | seqReset
    | calConfirm => rfl

/-- A word decodes to a command exactly if it carries the fields of that command, well formed, and no reserved bit. -/
theorem decode_eq_ok_iff {w : Word} {i : Instr} :
    decode w = .ok i ↔
      fieldReserved w = 0 ∧ i.wellFormed = true ∧ i.argument = fieldArg w ∧ i.opcode = fieldOp w := by
  unfold decode
  split
  case isTrue h => simp only [decodeOp_eq_ok_iff, h, true_and]
  case isFalse h => simp only [h, false_and, reduceCtorEq]

/-- The decoder and the encoder are inverse to each other on the well-formed commands. -/
theorem decode_eq_ok_iff_encode {w : Word} {i : Instr} : decode w = .ok i ↔ i.wellFormed = true ∧ encode i = w := by
  rw [decode_eq_ok_iff]
  constructor
  · rintro ⟨hres, hwf, harg, hop⟩
    exact ⟨hwf, (encode_eq_iff hwf w).mpr ⟨hres, harg.symm, hop.symm⟩⟩
  · rintro ⟨hwf, hw⟩
    obtain ⟨hres, harg, hop⟩ := (encode_eq_iff hwf w).mp hw
    exact ⟨hres, hwf, harg.symm, hop.symm⟩

/-- Settles O1: one direction of `decode_eq_ok_iff_encode`, and the bytes of the word. -/
theorem encodeDecodeRoundTrip : Obligations.EncodeDecodeRoundTrip := fun _ hwf =>
  have hdec := decode_eq_ok_iff_encode.mpr ⟨hwf, rfl⟩
  ⟨hdec, decodeBytes_lanesOfWord hdec⟩

/-- Settles O2: the other direction. -/
theorem decodeEncodeExact : Obligations.DecodeEncodeExact := fun _ _ => decode_eq_ok_iff_encode.mp

/-! ### The rows of the opcode map (R172) -/

/-- The row of an opcode: its mask leaves out the bits of `ARG` that the opcode uses, its match is the opcode. -/
def opcodeRow (op : Nat) : Word × Word :=
  (0xFF#8 ++ (BitVec.allOnes 16 <<< argBits op ++ 0xFF#8), BitVec.ofNat 32 op)

theorem opcodeRows_eq_map : opcodeRows = opcodes.map opcodeRow := by decide

theorem mem_opcodeRows_iff {row : Word × Word} : row ∈ opcodeRows ↔ ∃ op ∈ opcodes, opcodeRow op = row := by
  rw [opcodeRows_eq_map, List.mem_map]

/-- The bits of a 16-bit field from bit `k` on are 0 exactly if the field is below `2 ^ k`. -/
theorem and_shifted_ones_eq_zero_iff {x : Half} {k : Nat} : x &&& BitVec.allOnes 16 <<< k = 0 ↔ x.toNat < 2 ^ k := by
  have hle : x.toNat / 2 ^ k * 2 ^ k < 2 ^ 16 := (Nat.div_mul_le_self _ _).trans_lt x.isLt
  rw [← BitVec.shiftLeft_ushiftRight, ← BitVec.toNat_inj, BitVec.toNat_shiftLeft, BitVec.toNat_ushiftRight,
    Nat.shiftLeft_eq, Nat.shiftRight_eq_div_pow, Nat.mod_eq_of_lt hle]
  change _ = 0 ↔ _
  rw [Nat.mul_eq_zero, or_iff_left (Nat.two_pow_pos k).ne', Nat.div_eq_zero_iff_lt (Nat.two_pow_pos k)]

/-- What a row's mask leaves of a word: all but the bits of `ARG` that the opcode uses. -/
theorem and_opcodeRow_mask (w : Word) (op : Nat) :
    w &&& (opcodeRow op).1 =
      w.extractLsb' 24 8 ++ ((w.extractLsb' 8 16 &&& BitVec.allOnes 16 <<< argBits op) ++ w.extractLsb' 0 8) := by
  conv_lhs => rw [← word_of_fields w]
  rw [opcodeRow, BitVec.and_append, BitVec.and_append]
  exact congrArg₂ (· ++ ·) BitVec.and_allOnes (congrArg _ BitVec.and_allOnes)

/-- A row selects a word exactly if the word has no reserved bit, the row's opcode, and an argument that fits it. -/
theorem opcodeRow_selects_iff {w : Word} {op : Nat} (hop : op < 256) :
    w &&& (opcodeRow op).1 = (opcodeRow op).2 ↔
      fieldReserved w = 0 ∧ fieldArg w < 2 ^ argBits op ∧ fieldOp w = op := by
  have hmatch : (opcodeRow op).2 = BitVec.ofNat 32 (0 * 256 + op) := by rw [Nat.zero_mul, Nat.zero_add]; rfl
  have harg : (w.extractLsb' 8 16 &&& BitVec.allOnes 16 <<< argBits op).toNat = 0 ↔ fieldArg w < 2 ^ argBits op := by
    rw [fieldArg, ← and_shifted_ones_eq_zero_iff, ← BitVec.toNat_inj]
    rfl
  rw [hmatch, eq_comm, eq_ofNat_iff_fields (by decide) hop, and_opcodeRow_mask, fieldReserved_append, fieldArg_append,
    fieldOp_append, harg]
  rfl

/-- Every argument that fits the bits of an opcode of the map is the argument of a command. -/
theorem exists_decodeOp_eq_ok {op arg : Nat} (hop : op ∈ opcodes) (harg : arg < 2 ^ argBits op) :
    ∃ i, decodeOp op arg = .ok i := by
  simp only [opcodes, List.mem_cons, List.not_mem_nil, or_false] at hop
  rcases hop with rfl | rfl | rfl | rfl | rfl | rfl | rfl | rfl | rfl | rfl | rfl | rfl | rfl | rfl | rfl | rfl | rfl
  all_goals exact ⟨_, if_pos (by simpa [argBits] using harg)⟩

/-- The legal words, by their fields. -/
theorem exists_decode_eq_ok_iff {w : Word} :
    (∃ i, decode w = .ok i) ↔
      fieldReserved w = 0 ∧ fieldOp w ∈ opcodes ∧ fieldArg w < 2 ^ argBits (fieldOp w) := by
  constructor
  · rintro ⟨i, h⟩
    obtain ⟨hres, hwf, harg, hop⟩ := decode_eq_ok_iff.mp h
    rw [← harg, ← hop]
    exact ⟨hres, i.opcode_mem, i.wellFormed_iff.mp hwf⟩
  · rintro ⟨hres, hop, harg⟩
    obtain ⟨i, hi⟩ := exists_decodeOp_eq_ok hop harg
    exact ⟨i, by rw [decode, if_pos hres, hi]⟩

/-- A row of the map selects a word exactly if the word is legal and the row is that of its opcode. -/
theorem row_selects_iff {w : Word} {row : Word × Word} :
    row ∈ opcodeRows ∧ w &&& row.1 = row.2 ↔ (∃ i, decode w = .ok i) ∧ row = opcodeRow (fieldOp w) := by
  rw [mem_opcodeRows_iff, exists_decode_eq_ok_iff]
  constructor
  · rintro ⟨⟨op, hmem, rfl⟩, hsel⟩
    obtain ⟨hres, harg, rfl⟩ := (opcodeRow_selects_iff (opcodes_lt op hmem)).mp hsel
    exact ⟨⟨hres, hmem, harg⟩, rfl⟩
  · rintro ⟨⟨hres, hmem, harg⟩, rfl⟩
    exact ⟨⟨_, hmem, rfl⟩, (opcodeRow_selects_iff (opcodes_lt _ hmem)).mpr ⟨hres, harg, rfl⟩⟩

/-- Settles O3: a legal word is selected by the row of its opcode and by no other. -/
theorem decoderSelectsTableRow : Obligations.DecoderSelectsTableRow := by
  intro w
  refine ⟨⟨fun hlegal => ?_, ?_⟩, ?_, fun i hi => ?_⟩
  · exact ⟨_, row_selects_iff.mpr ⟨hlegal, rfl⟩⟩
  · rintro ⟨row, hrow⟩
    exact (row_selects_iff.mp hrow).1
  · intro row hmem row' hmem' hsel hsel'
    exact (row_selects_iff.mp ⟨hmem, hsel⟩).2.trans (row_selects_iff.mp ⟨hmem', hsel'⟩).2.symm
  · obtain ⟨hmem, hsel⟩ := row_selects_iff.mpr ⟨⟨i, hi⟩, rfl⟩
    obtain ⟨-, -, -, hop⟩ := decode_eq_ok_iff.mp hi
    exact ⟨_, hmem, hsel, by rw [hop]; rfl⟩

/-! ### Illegal words (R173) -/

/-- An unassigned opcode, a reserved bit, or an argument that uses a bit the opcode does not. -/
theorem not_legal_of_fields {op arg res : Nat}
    (h : (0x08 ≤ op ∧ op ≤ 0x0F) ∨ (0x17 ≤ op ∧ op ≤ 0x1F) ∨ 0x22 ≤ op ∨ res ≠ 0 ∨ (op = 0x03 ∧ 64 ≤ arg)
      ∨ ((op = 0x06 ∨ op = 0x07) ∧ 512 ≤ arg) ∨ (op ≠ 0x03 ∧ op ≠ 0x06 ∧ op ≠ 0x07 ∧ arg ≠ 0)) :
    ¬ (res = 0 ∧ op ∈ opcodes ∧ arg < 2 ^ argBits op) := by
  rintro ⟨hres, hmem, harg⟩
  have hop := opcodes_range op hmem
  unfold argBits at harg
  split_ifs at harg <;> omega

/-- A word that does not decode signals `CMD_ERR` (R173, R367). -/
theorem Machine.cmdWrite_illegal {w : Word} (h : ¬ ∃ i, decode w = .ok i) (s : State) :
    cmdWrite w s = .next (s.signal .cmdErr) := by
  unfold cmdWrite
  split
  case h_1 i hi => exact absurd ⟨i, hi⟩ h
  case h_2 => rfl

/-- Settles O4: by its fields, such a word is not legal, and only a legal word is selected by a row. -/
theorem illegalWordSignalsCmdErr : Obligations.IllegalWordSignalsCmdErr := by
  refine ⟨fun w hw s => ?_, fun w hfields row hmem hsel => ?_⟩
  · have hillegal : ¬ ∃ i, decode w = .ok i := fun hlegal =>
      have ⟨hmem, hsel⟩ := row_selects_iff.mpr ⟨hlegal, rfl⟩
      hw _ hmem hsel
    exact Machine.cmdWrite_illegal hillegal { s with resp := .write false }
  · exact not_legal_of_fields hfields (exists_decode_eq_ok_iff.mp (row_selects_iff.mp ⟨hmem, hsel⟩).1)

/-- Settles O5, by evaluating the decoder on each word. -/
theorem sampleWordsDecode : Obligations.SampleWordsDecode :=
  ⟨rfl, rfl, rfl, rfl, rfl, rfl, rfl, rfl, rfl, rfl⟩

end Sys2Proof

namespace Sys2Proof.Machine

/-! ## The words of the map (R141-R168)

Which offset names which word; then the storage of the jobs, the words of flags, and what every offset reads. -/

/-! ### The offsets of the windows (R141) -/

theorem accessLoc_window {o : Nat} {l : Loc} (ho : o % 4 = 0 ∧ 0x80 ≤ o ∧ o < 65536)
    (hl : windowLoc o = some l) : accessLoc (BitVec.ofNat 16 o) 0xF#4 = some l := by
  obtain ⟨h4, hlo, hhi⟩ := ho
  have hoff : (BitVec.ofNat 16 o).toNat = o := Nat.mod_eq_of_lt hhi
  rw [accessLoc_eq_some_iff, hoff, locOf_eq_windowLoc hlo]
  exact ⟨h4, rfl, hl⟩

theorem accessLoc_energyLo {b : Nat} (hb : b < 8) :
    accessLoc (BitVec.ofNat 16 (0x080 + 8 * b)) 0xF#4 = some (.energyLo b) := by
  have hindex : (0x080 + 8 * b - 0x080) / 8 = b := by omega
  exact accessLoc_window (by omega) (by simp (disch := omega) only [windowLoc, if_pos, hindex])

theorem accessLoc_energyHi {b : Nat} (hb : b < 8) :
    accessLoc (BitVec.ofNat 16 (0x084 + 8 * b)) 0xF#4 = some (.energyHi b) := by
  have hindex : (0x084 + 8 * b - 0x080) / 8 = b := by omega
  exact accessLoc_window (by omega) (by simp (disch := omega) only [windowLoc, if_pos, if_neg, hindex])

theorem accessLoc_seq {i : Nat} (hi : i < 256) : accessLoc (BitVec.ofNat 16 (0x400 + 4 * i)) 0xF#4 = some (.seq i) := by
  have hindex : (0x400 + 4 * i - 0x400) / 4 = i := by omega
  exact accessLoc_window (by omega) (by simp (disch := omega) only [windowLoc, if_pos, if_neg, hindex])

theorem accessLoc_frameA {n : Nat} (hn : n < 512) :
    accessLoc (BitVec.ofNat 16 (0x1000 + 4 * n)) 0xF#4 = some (.frame .a n) := by
  have hindex : (0x1000 + 4 * n - 0x1000) / 4 = n := by omega
  exact accessLoc_window (by omega) (by simp (disch := omega) only [windowLoc, if_pos, if_neg, hindex])

theorem accessLoc_frameB {n : Nat} (hn : n < 512) :
    accessLoc (BitVec.ofNat 16 (0x2000 + 4 * n)) 0xF#4 = some (.frame .b n) := by
  have hindex : (0x2000 + 4 * n - 0x2000) / 4 = n := by omega
  exact accessLoc_window (by omega) (by simp (disch := omega) only [windowLoc, if_pos, if_neg, hindex])

theorem accessLoc_specRe {k : Nat} (hk : k < 512) :
    accessLoc (BitVec.ofNat 16 (0x4000 + 8 * k)) 0xF#4 = some (.specRe k) := by
  have hindex : (0x4000 + 8 * k - 0x4000) / 8 = k := by omega
  exact accessLoc_window (by omega) (by simp (disch := omega) only [windowLoc, if_pos, if_neg, hindex])

theorem accessLoc_specIm {k : Nat} (hk : k < 512) :
    accessLoc (BitVec.ofNat 16 (0x4004 + 8 * k)) 0xF#4 = some (.specIm k) := by
  have hindex : (0x4004 + 8 * k - 0x4000) / 8 = k := by omega
  exact accessLoc_window (by omega) (by simp (disch := omega) only [windowLoc, if_pos, if_neg, hindex])

theorem accessLoc_twrom {k : Nat} (hk : k < 512) :
    accessLoc (BitVec.ofNat 16 (0x8000 + 4 * k)) 0xF#4 = some (.twrom k) := by
  have hindex : (0x8000 + 4 * k - 0x8000) / 4 = k := by omega
  exact accessLoc_window (by omega) (by simp (disch := omega) only [windowLoc, if_pos, if_neg, hindex])

/-! ### The storage of the jobs (R141, R364) -/

theorem State.rwmOpen_iff (s : State) : s.rwmOpen = true ↔ s.auto = false ∧ s.job = .none := by
  simp [State.rwmOpen, State.busy]

/-- The words of access `RWM` (R141). -/
def Loc.jobStorage : Loc → Bool
  | .tone | .energyLo _ | .energyHi _ | .specRe _ | .specIm _ => true
  | .id | .param | .ctrl | .status | .event | .irqEn | .cmd | .result | .lastChar | .seqLen | .fftThresh | .goeThreshLo
  | .goeThreshHi | .maxAmp | .halfAmp | .rawFs | .calSpan | .midpoint | .cuARe | .cuAIm | .cuBRe | .cuBIm | .cuRRe
  | .cuRIm | .cuSRe | .cuSIm | .cuMLo | .cuMHi | .grom _ | .seq _ | .frame _ _ | .twrom _ => false

/-- Outside manual mode and idle, a write of the storage of the jobs is ignored. -/
theorem jobStorageWrite_ignored {s : State} {off : Half} {l : Loc} (hclosed : s.auto = true ∨ s.job ≠ .none)
    (hl : accessLoc off 0xF#4 = some l) (hst : l.jobStorage = true) (d : Word) :
    act (.busWrite off 0xF#4 d) s = .next { s with resp := .write false } := by
  have hopen : ({ s with resp := .write false } : State).rwmOpen ≠ true := by
    rw [ne_eq, State.rwmOpen_iff, not_and_or, Bool.not_eq_false]
    exact hclosed
  refine act_busWrite_of hl (fun hc => nomatch hc ▸ hst) ?_
  cases l with
  | tone | energyLo _ | energyHi _ | specRe _ | specIm _ => exact if_neg hopen
  | id | param | ctrl | status | event | irqEn | cmd | result | lastChar | seqLen | fftThresh | goeThreshLo
  | goeThreshHi | maxAmp | halfAmp | rawFs | calSpan | midpoint | cuARe | cuAIm | cuBRe | cuBIm | cuRRe
  | cuRIm | cuSRe | cuSIm | cuMLo | cuMHi | grom _ | seq _ | frame _ _ | twrom _ => cases hst

theorem State.energyAt_setEnergy_same (s : State) {b : Nat} (hb : b < 8) (v : Dword) :
    (s.setEnergy b v).energyAt b = v := by
  simp [State.energyAt, State.setEnergy, hb]

theorem State.energyAt_setEnergy_other (s : State) {b c : Nat} (h : c ≠ b) (v : Dword) :
    (s.setEnergy b v).energyAt c = s.energyAt c := by
  simp [State.energyAt, State.setEnergy, List.getD, List.getElem?_set_ne h.symm]

/-- The two words of each bin are the words of the RAM at their offsets (R165; log entry 16). -/
theorem exists_specWord {k : Nat} (hk : k < 1024) :
    ∃ l, accessLoc (BitVec.ofNat 16 (0x4000 + 4 * k)) 0xF#4 = some l ∧ l.jobStorage = true ∧
      ∀ s d, s.rwmOpen = true → writeReg s l d = s.writeBytes (0x4000 + 4 * k) (wordBytes d) := by
  obtain ⟨j, rfl | rfl⟩ := Nat.even_or_odd' k
  · have ho : 0x4000 + 4 * (2 * j) = 0x4000 + 8 * j := by omega
    rw [ho]
    exact ⟨.specRe j, accessLoc_specRe (by omega), rfl, fun s d hopen => if_pos hopen⟩
  · have ho : 0x4000 + 4 * (2 * j + 1) = 0x4004 + 8 * j := by omega
    have haddr : 0x4004 + 8 * j = binAddr j + 4 := by simp only [binAddr]; omega
    refine ⟨.specIm j, by rw [ho]; exact accessLoc_specIm (by omega), rfl, fun s d hopen => ?_⟩
    rw [ho, haddr]
    exact if_pos hopen

/-- Settles O53: the storage is open exactly in manual mode and idle. -/
theorem jobStorageWrites : Obligations.JobStorageWrites := by
  intro s d k b hk hb
  obtain ⟨l, hl, hst, hwrite⟩ := exists_specWord hk
  refine ⟨fun hclosed => ?_, fun hauto hjob => ?_⟩
  · simp only [List.forall_mem_cons]
    exact ⟨jobStorageWrite_ignored hclosed hl hst d, jobStorageWrite_ignored hclosed (accessLoc_energyLo hb) rfl d,
      jobStorageWrite_ignored hclosed (accessLoc_energyHi hb) rfl d,
      jobStorageWrite_ignored hclosed (l := .tone) rfl rfl d, nofun⟩
  · have hopen : ({ s with resp := .write false } : State).rwmOpen = true := (State.rwmOpen_iff _).mpr ⟨hauto, hjob⟩
    refine ⟨act_busWrite_of (l := .tone) rfl nofun (if_pos hopen), ?lo, ?hi, ?spec⟩
    case lo =>
      exact ⟨_, act_busWrite_of (accessLoc_energyLo hb) nofun (if_pos hopen), rfl,
        State.energyAt_setEnergy_same _ hb _, fun c hc => State.energyAt_setEnergy_other _ hc _⟩
    case hi =>
      exact ⟨_, act_busWrite_of (accessLoc_energyHi hb) nofun (if_pos hopen), rfl,
        State.energyAt_setEnergy_same _ hb _, fun c hc => State.energyAt_setEnergy_other _ hc _⟩
    case spec =>
      exact ⟨_, act_busWrite_of hl (fun hc => nomatch hc ▸ hst) (hwrite _ d hopen), rfl,
        State.readWord_writeWord _ _ d, fun a ha => State.readByte_writeBytes_outside _ ha⟩

/-! ### The words of flags (R145-R150, R405) -/

theorem flagBit_getLsbD (b : Bool) (i j : Nat) : (flagBit b i).getLsbD j = (b && decide (j = i ∧ j < 32)) := by
  cases b
  · simp [flagBit]
  · simp only [flagBit, if_true, BitVec.getLsbD_shiftLeft, BitVec.getLsbD_one]
    grind

/-- `irq` is raised by some event that is set and enabled (R405). -/
theorem State.irq_iff (s : State) :
    s.irq = true ↔ ∃ b, b < 9 ∧ s.event.getLsbD b = true ∧ s.irqEn.getLsbD b = true := by
  have hzero : s.event &&& s.irqEn = 0#9 ↔ ∀ b < 9, (s.event.getLsbD b && s.irqEn.getLsbD b) = false := by
    simp only [← BitVec.getLsbD_and]
    exact ⟨fun h b _ => by rw [h, BitVec.getLsbD_zero], fun h => BitVec.eq_of_getLsbD_eq fun b hb => by
      rw [h b hb, BitVec.getLsbD_zero]⟩
  rw [State.irq, decide_eq_true_iff, ne_eq, hzero]
  simp

theorem Job.code_lt (j : Job) : j.code < 8 := by
  cases j <;> decide

/-- Each bit of `STATUS` comes from the field whose place it is (R146). -/
theorem State.statusWord_getLsbD (s : State) {j : Nat} (hj : j < 32) :
    s.statusWord.getLsbD j =
      (s.calDone && decide (j = 0) || s.rdyP && decide (j = 1) || s.ridxP.isB && decide (j = 2) ||
        s.busy && decide (j = 3) || s.confirmPend && decide (j = 4) || s.straddle && decide (j = 5) ||
        !decide (j < 8) && s.band.getLsbD (j - 8) ||
        !decide (j < 12) && (BitVec.ofNat 3 s.job.code).getLsbD (j - 12) ||
        s.irq && decide (j = 16)) := by
  have hcode : (BitVec.ofNat 3 s.job.code).getLsbD (j - 12) = s.job.code.testBit (j - 12) := by
    rw [← BitVec.testBit_toNat, BitVec.toNat_ofNat, Nat.mod_eq_of_lt s.job.code_lt]
  have hband : j - 8 < 32 := by omega
  have hjob : j - 12 < 32 := by omega
  simp only [State.statusWord, flagBit_getLsbD, BitVec.getLsbD_or, BitVec.getLsbD_shiftLeft, BitVec.getLsbD_setWidth,
    BitVec.getLsbD_ofNat (n := 32), hj, hband, hjob, hcode, and_true, decide_true, Bool.true_and]

/-- The fields of `STATUS` that have more than one bit, and its reserved bits (R106, R146). -/
theorem State.statusWord_fields (s : State) :
    s.statusWord.extractLsb' 6 2 = 0#2 ∧ s.statusWord.extractLsb' 8 4 = s.band ∧
      s.statusWord.extractLsb' 12 3 = BitVec.ofNat 3 s.job.code ∧ s.statusWord.extractLsb' 17 15 = 0#15 := by
  refine ⟨?_, ?_, ?_, ?_⟩
  all_goals
    refine BitVec.eq_of_getLsbD_eq fun i hi => ?_
    rw [BitVec.getLsbD_extractLsb', s.statusWord_getLsbD (by omega)]
    grind

theorem FrameIx.isB_eq (f : FrameIx) : f.isB = decide (f = .b) := by
  cases f <;> rfl

/-- The flags of `STATUS`, and its reserved bit 15 (R106, R146). -/
theorem State.statusWord_flags (s : State) :
    s.statusWord.getLsbD 0 = s.calDone ∧ s.statusWord.getLsbD 1 = s.rdyP ∧
      s.statusWord.getLsbD 2 = decide (s.ridxP = .b) ∧ s.statusWord.getLsbD 3 = decide (s.job ≠ .none) ∧
      s.statusWord.getLsbD 4 = s.confirmPend ∧ s.statusWord.getLsbD 5 = s.straddle ∧
      s.statusWord.getLsbD 15 = false ∧ s.statusWord.getLsbD 16 = s.irq := by
  refine ⟨?_, ?_, ?_, ?_, ?_, ?_, ?_, ?_⟩
  all_goals
    rw [s.statusWord_getLsbD (by decide)]
    simp [FrameIx.isB_eq, State.busy]

/-- Settles O55: the read answers `State.statusWord`, whose bits the lemmas above give. -/
theorem statusBits : Obligations.StatusBits := by
  intro s
  obtain ⟨hcal, hrdy, hridx, hbusy, hpend, hstraddle, h15, hirq⟩ := s.statusWord_flags
  obtain ⟨hres, hband, hjob, hhigh⟩ := s.statusWord_fields
  refine ⟨s.statusWord, answers_of (l := .status) rfl rfl, hcal, hrdy, hridx, hbusy, hpend, hstraddle, hres, hband,
    hjob.trans ?_, h15, hirq, hhigh, s.irq_iff⟩
  cases s.job <;> rfl

/-! ### What every offset reads (R142-R168) -/

/-- Fields laid out side by side do not overlap: the number of a word is a sum. -/
theorem toNat_append_eq {m n : Nat} (x : BitVec m) (y : BitVec n) : (x ++ y).toNat = x.toNat * 2 ^ n + y.toNat := by
  rw [BitVec.toNat_append, ← Nat.shiftLeft_add_eq_or_of_lt y.isLt, Nat.shiftLeft_eq]

/-- Reserved high bits read 0 (R106). -/
theorem setWidth_eq_zero_append {n : Nat} (m : Nat) (x : BitVec n) : x.setWidth (m + n) = 0#m ++ x := by
  have hx : x.toNat < 2 ^ (m + n) := x.isLt.trans_le (Nat.pow_le_pow_right (by decide) (Nat.le_add_left n m))
  apply BitVec.eq_of_toNat_eq
  rw [toNat_append_eq, BitVec.toNat_setWidth, Nat.mod_eq_of_lt hx, BitVec.toNat_zero, Nat.zero_mul, Nat.zero_add]

/-- `PARAM` with its fields laid out, bit 31 first (R144). -/
theorem paramWord_eq (p : Params) :
    paramWord p = 0#11 ++ BitVec.ofNat 5 p.rawBits ++ 0#3 ++ BitVec.ofBool (p.fdetRef = .bin) ++ 9#4
      ++ BitVec.ofNat 8 (p.gSequenceLength - 2) := by
  apply BitVec.eq_of_toNat_eq
  simp only [toNat_append_eq, paramWord, Params.seqCap, BitVec.toNat_ofNat]
  cases p.fdetRef with
  | canonical | bin =>
    simp only [reduceCtorEq, decide_false, decide_true, BitVec.toNat_ofBool, Bool.toNat_false, Bool.toNat_true]
    omega

/-- `CTRL` with its fields laid out, bit 31 first (R145). -/
theorem State.ctrlWord_eq (s : State) :
    s.ctrlWord = 0#30 ++ BitVec.ofBool (s.alg = .goertzel) ++ BitVec.ofBool s.auto := by
  rw [State.ctrlWord]
  cases s.alg <;> cases s.auto <;> rfl

theorem ResultCode.code_lt (c : ResultCode) : c.code < 8 := by
  cases c <;> decide

/-- `RESULT` with its fields laid out, bit 31 first (R150). -/
theorem State.resultWord_eq (s : State) :
    s.resultWord = 0#16 ++ s.resultSym ++ 0#5 ++ BitVec.ofNat 3 s.resultCode.code := by
  have hsym := s.resultSym.isLt
  have hcode := s.resultCode.code_lt
  have hor : s.resultWord.toNat = s.resultSym.toNat * 2 ^ 8 + s.resultCode.code := by
    rw [← Nat.shiftLeft_eq, Nat.shiftLeft_add_eq_or_of_lt (by omega), Nat.or_comm, State.resultWord, BitVec.toNat_or,
      BitVec.toNat_shiftLeft, BitVec.toNat_setWidth, BitVec.toNat_ofNat, Nat.mod_eq_of_lt (by omega),
      Nat.mod_eq_of_lt (by omega), Nat.mod_eq_of_lt (by omega)]
  apply BitVec.eq_of_toNat_eq
  simp only [hor, toNat_append_eq, BitVec.toNat_ofNat]
  omega

/-- `TWROM` holds the two components of `TW` (R168). -/
theorem twRomWord_eq (k : Nat) : twRomWord k = BitVec.ofInt 16 (tw k).im ++ BitVec.ofInt 16 (tw k).re := by
  simp only [tw, BitVec.ofInt_toInt]
  symm
  exact (BitVec.extractLsb'_append_extractLsb'_eq_extractLsb' rfl).trans BitVec.extractLsb'_eq_self

/-- A read of a word that the running job does not write, from what `readVal` answers (R104, R364). -/
theorem answers_readVal {s : State} {off : Half} {l : Loc} {w : Word} (hl : accessLoc off 0xF#4 = some l)
    (hj : jobWrites s l = false) (hw : readVal s l = w) : Answers s off w := hw ▸ answers_of hl hj

/-- Settles O60: each register's word is the one its equation above lays out, or holds by definition. -/
theorem registerMapReads : Obligations.RegisterMapReads := by
  intro s
  refine ⟨?registers, ?tone, ?energy, ?seq, ?frame, ?spec, ?twrom⟩
  case registers =>
    simp only [List.forall_mem_cons]
    refine ⟨?_, answers_readVal (l := .param) rfl rfl (paramWord_eq _),
      answers_readVal (l := .ctrl) rfl rfl s.ctrlWord_eq,
      answers_readVal (l := .event) rfl rfl (setWidth_eq_zero_append 23 _),
      answers_readVal (l := .irqEn) rfl rfl (setWidth_eq_zero_append 23 _), ?_,
      answers_readVal (l := .result) rfl rfl (s.resultWord_eq.trans ?code),
      answers_readVal (l := .lastChar) rfl rfl (setWidth_eq_zero_append 24 _),
      answers_readVal (l := .seqLen) rfl rfl (setWidth_eq_zero_append 24 _), ?_, ?_, ?_,
      answers_readVal (l := .maxAmp) rfl rfl (setWidth_eq_zero_append 16 _), ?_,
      answers_readVal (l := .rawFs) rfl rfl (setWidth_eq_zero_append 16 _),
      answers_readVal (l := .calSpan) rfl rfl (setWidth_eq_zero_append 16 _),
      answers_readVal (l := .midpoint) rfl rfl (setWidth_eq_zero_append 16 _), ?_, ?_, ?_, ?_, ?_, ?_, ?_, ?_, ?_, ?_,
      ?_, ?_, ?_, ?_, ?_, ?_, ?_, ?_, nofun⟩
    case code => cases s.resultCode <;> rfl
    all_goals exact answers_readVal rfl rfl rfl
  case tone =>
    intro hfdet hgdet hproc
    exact answers_readVal (l := .tone) rfl (by simp [jobWrites, hfdet, hgdet, hproc]) rfl
  case energy =>
    intro hgoe hproc b hb
    exact ⟨answers_readVal (accessLoc_energyLo hb) (by simpa [jobWrites, hgoe] using hproc) rfl,
      answers_readVal (accessLoc_energyHi hb) (by simpa [jobWrites, hgoe] using hproc) rfl⟩
  case seq =>
    intro i hi
    refine answers_readVal (accessLoc_seq hi) rfl ?_
    rw [← setWidth_eq_zero_append 24]
    rfl
  case frame =>
    exact fun n hn => ⟨answers_readVal (accessLoc_frameA hn) rfl rfl, answers_readVal (accessLoc_frameB hn) rfl rfl⟩
  case spec =>
    intro hfft hproc k hk
    exact ⟨answers_readVal (accessLoc_specRe hk) (by simpa [jobWrites, hfft] using hproc) rfl,
      answers_readVal (accessLoc_specIm hk) (by simpa [jobWrites, hfft] using hproc) rfl⟩
  case twrom => exact fun k hk => answers_readVal (accessLoc_twrom hk) rfl (twRomWord_eq k)

end Sys2Proof.Machine

namespace Sys2Proof.Machine

/-! ## The complex unit (R200-R211)

Each command of the unit is its word, its refusal while busy, and one effect. The words and the refusal are said once
for all commands; the effects come down to what the stored pattern of an integer result is, and how large a magnitude
can be. -/

/-! ### The word of a command -/

theorem decode_eq_ok_iff_word {w : Word} {i : Instr} : decode w = .ok i ↔ i.wellFormed = true ∧ w = encode i := by
  rw [decode_eq_ok_iff_encode, eq_comm (a := encode i)]

/-- A well-formed command has one word. -/
theorem decode_eq_ok_iff_eq {i : Instr} (hwf : i.wellFormed = true) (w : Word) : decode w = .ok i ↔ w = encode i :=
  decode_eq_ok_iff_word.trans (and_iff_right hwf)

/-! ### Class CU (R200, R367) -/

theorem runCuCommand_idle {s : State} (h : s.job = .none) (f : State → State) : runCuCommand f s = .next (f s) := by
  simp only [runCuCommand, s.busy_eq_false_iff.mpr h, Bool.false_eq_true, if_false]

/-- A command of the unit has one answer while busy. -/
theorem exec_cu_busy {i : Instr} (hi : i.commandClass = .cu) {s : State} (h : s.job ≠ .none) :
    exec i s = .next { s with event := s.event ||| 0x010#9 } := by
  have hrefused (f : State → State) : runCuCommand f s = .next { s with event := s.event ||| 0x010#9 } :=
    if_pos (decide_eq_true h)
  cases i with
  | cadd | csub | cmul _ | cmag2 | cmag | cpolar _ | cbfly _ =>
    simp only [exec, execCadd, execCsub, execCmul, execCmag2, execCmag, execCpolar, execCbfly, hrefused]
  | nop | fftRun | goeRun | fdet | gdet | decode | process | release | seqReset | calConfirm => cases hi

/-! ### The stored pattern of a result (R11-R13, R201, R202) -/

@[simp] theorem storedOf_valueOf (z : Cplx) : storedOf (valueOf z) = z := by
  simp only [storedOf, valueOf, BitVec.ofInt_toInt]

/-- Sums of components are sums of patterns: both are modulo 2^32. -/
theorem storedOf_cadd (a b : Cx) :
    storedOf (cadd a b) =
      { re := (storedOf a).re + (storedOf b).re, im := (storedOf a).im + (storedOf b).im } := by
  simp only [storedOf, cadd, ofInt_wrap, BitVec.ofInt_add]

theorem storedOf_csub (a b : Cx) :
    storedOf (csub a b) =
      { re := (storedOf a).re - (storedOf b).re, im := (storedOf a).im - (storedOf b).im } := by
  simp only [storedOf, csub, ofInt_wrap, sub_eq_add_neg, BitVec.ofInt_add, BitVec.ofInt_neg]

theorem storedOf_cmul (a b : Cx) (sh : Nat) :
    storedOf (cmul a b sh) =
      { re := BitVec.ofInt 32 (rnd (a.re * b.re - a.im * b.im) sh)
        im := BitVec.ofInt 32 (rnd (a.re * b.im + a.im * b.re) sh) } := by
  simp only [storedOf, cmul, ofInt_wrap]

theorem rnd_zero (v : Int) : rnd v 0 = v := rfl

theorem rnd_of_ne_zero {sh : Nat} (h : sh ≠ 0) (v : Int) : rnd v sh = (v + 2 ^ (sh - 1)) / 2 ^ sh := by
  simp only [rnd, shiftDown, if_neg h, Nat.cast_pow, Nat.cast_ofNat]

theorem rnd_fourteen (v : Int) : rnd v 14 = (v + 8192) / 16384 := rnd_of_ne_zero (by decide) v

/-- The product by a Q2.14 factor, each component rounded once (R201). -/
theorem storedOf_cmul14 (a b : Cx) :
    storedOf (cmul14 a b) =
      { re := BitVec.ofInt 32 ((a.re * b.re - a.im * b.im + 8192) / 16384)
        im := BitVec.ofInt 32 ((a.re * b.im + a.im * b.re + 8192) / 16384) } := by
  rw [cmul14, storedOf_cmul, rnd_fourteen, rnd_fourteen]

/-! ### The magnitude (R203) -/

theorem mag2_cast (a : Cx) : (mag2 a : Int) = a.re * a.re + a.im * a.im :=
  Int.toNat_of_nonneg (add_nonneg (mul_self_nonneg _) (mul_self_nonneg _))

theorem toInt_mul_self_le (x : Word) : x.toInt * x.toInt ≤ 2 ^ 62 := by
  have hlo : -2 ^ 31 ≤ x.toInt := BitVec.le_toInt x
  have hhi : x.toInt ≤ 2 ^ 31 := (BitVec.toInt_lt (x := x)).le
  nlinarith only [hlo, hhi]

/-- The largest magnitude squared is that of −2^31 − i·2^31. -/
theorem mag2_valueOf_le (z : Cplx) : mag2 (valueOf z) ≤ 2 ^ 63 := by
  have hcast := mag2_cast (valueOf z)
  have hre := toInt_mul_self_le z.re
  have him := toInt_mul_self_le z.im
  simp only [valueOf] at hcast ⊢
  omega

theorem cmag_valueOf_spec (z : Cplx) :
    cmag (valueOf z) * cmag (valueOf z) ≤ mag2 (valueOf z) ∧
      mag2 (valueOf z) < (cmag (valueOf z) + 1) * (cmag (valueOf z) + 1) :=
  isqrt_spec ((mag2_valueOf_le z).trans_lt (by decide))

/-- 3037000499 is the floor of the square root of 2^63. -/
theorem cmag_valueOf_le (z : Cplx) : cmag (valueOf z) ≤ 3037000499 := by
  obtain ⟨hroot, -⟩ := cmag_valueOf_spec z
  have hmax := mag2_valueOf_le z
  by_contra! hlarge
  have hsq : 3037000500 * 3037000500 ≤ cmag (valueOf z) * cmag (valueOf z) := Nat.mul_le_mul hlarge hlarge
  omega

theorem extractLsb'_high_eq_zero {x : Dword} (h : x.toNat < 2 ^ 32) : x.extractLsb' 32 32 = 0#32 := by
  apply BitVec.eq_of_toNat_eq
  rw [BitVec.extractLsb'_toNat, Nat.shiftRight_eq_div_pow, Nat.div_eq_of_lt h]
  rfl

/-! ### The commands (R204-R211) -/

/-- Settles O9. -/
theorem nopChangesNothing : Obligations.NopChangesNothing :=
  ⟨decode_eq_ok_iff_eq rfl, fun _ => rfl⟩

/-- Settles O10: modulo 2^32, the sum of the integers is the sum of the patterns. -/
theorem addAndSubtract : Obligations.AddAndSubtract := by
  refine ⟨decode_eq_ok_iff_eq rfl, decode_eq_ok_iff_eq rfl, fun s => ⟨fun hidle => ?_, fun hbusy => ?_⟩⟩
  · constructor
    · rw [exec, execCadd, runCuCommand_idle hidle, storedOf_cadd, storedOf_valueOf, storedOf_valueOf]
    · rw [exec, execCsub, runCuCommand_idle hidle, storedOf_csub, storedOf_valueOf, storedOf_valueOf]
  · exact ⟨exec_cu_busy rfl hbusy, exec_cu_busy rfl hbusy⟩

/-- Settles O11: the one wrap is that of the store; a shift by 0 does not round. -/
theorem multiplyRoundsOnce : Obligations.MultiplyRoundsOnce := by
  refine ⟨fun w sh => decode_eq_ok_iff_word.trans (and_congr_left' decide_eq_true_iff),
    fun s sh _ => ⟨fun hidle => ?_, fun hbusy => exec_cu_busy rfl hbusy⟩⟩
  rw [exec, execCmul, runCuCommand_idle hidle, storedOf_cmul]
  obtain rfl | hsh := eq_or_ne sh 0
  · simp only [rnd_zero, valueOf, if_true]
  · simp only [rnd_of_ne_zero hsh, valueOf, if_neg hsh]

/-- Settles O12: a magnitude squared is at most 2^63, so 64 bits hold it. -/
theorem magnitudeSquaredIsExact : Obligations.MagnitudeSquaredIsExact := by
  refine ⟨decode_eq_ok_iff_eq rfl, fun s => ⟨fun hidle => ?_, fun hbusy => exec_cu_busy rfl hbusy⟩⟩
  have hmax := mag2_valueOf_le s.cuA
  have hstored : (BitVec.ofNat 64 (mag2 (valueOf s.cuA))).toNat = mag2 (valueOf s.cuA) := by
    rw [BitVec.toNat_ofNat, Nat.mod_eq_of_lt (hmax.trans_lt (by decide))]
  rw [exec, execCmag2, runCuCommand_idle hidle]
  refine ⟨_, rfl, rfl, ?_, ?_⟩
  · exact (congrArg Nat.cast hstored).trans (mag2_cast _)
  · exact hstored.trans_le hmax

/-- Settles O13: the root of a value of at most 2^63 fits the low word. -/
theorem magnitudeIsFloorRoot : Obligations.MagnitudeIsFloorRoot := by
  refine ⟨decode_eq_ok_iff_eq rfl, fun s => ⟨fun hidle => ?_, fun hbusy => exec_cu_busy rfl hbusy⟩⟩
  have hmax := cmag_valueOf_le s.cuA
  obtain ⟨hle, hlt⟩ := cmag_valueOf_spec s.cuA
  have hstored : (BitVec.ofNat 64 (cmag (valueOf s.cuA))).toNat = cmag (valueOf s.cuA) := by
    rw [BitVec.toNat_ofNat, Nat.mod_eq_of_lt (hmax.trans_lt (by decide))]
  have hmag : (mag2 (valueOf s.cuA) : Int) = s.cuA.re.toInt * s.cuA.re.toInt + s.cuA.im.toInt * s.cuA.im.toInt :=
    mag2_cast _
  rw [exec, execCmag, runCuCommand_idle hidle]
  refine ⟨_, rfl, rfl, ?_⟩
  simp only [hstored, ← hmag]
  exact ⟨mod_cast hle, mod_cast hlt, hmax,
    extractLsb'_high_eq_zero (hstored.trans_lt (hmax.trans_lt (by decide)))⟩

/-- Settles O14: with no imaginary part, each component of the product is a single product. -/
theorem polarAtRomAngle : Obligations.PolarAtRomAngle := by
  refine ⟨fun w k => decode_eq_ok_iff_word.trans (and_congr_left' decide_eq_true_iff),
    fun s k _ => ⟨fun hidle => ?_, fun hbusy => exec_cu_busy rfl hbusy⟩⟩
  simp only [storedOf_cmul14, zero_mul, sub_zero, add_zero, and_self]
  rw [exec, execCpolar, runCuCommand_idle hidle]
  simp only [storedOf, ofInt_wrap, rnd_fourteen]

/-- Settles O15: the command runs the engine's butterfly, whose outputs are a sum and a difference of patterns. -/
theorem butterflyOfRegisters : Obligations.ButterflyOfRegisters := by
  refine ⟨fun w k => decode_eq_ok_iff_word.trans (and_congr_left' decide_eq_true_iff),
    fun s k _ => ⟨fun hidle => ?_, fun hbusy => exec_cu_busy rfl hbusy⟩⟩
  rw [exec, execCbfly, runCuCommand_idle hidle]
  refine ⟨_, rfl, rfl, ?_, ?_, rfl, rfl⟩
  · simp only [bfly, storedOf_cadd, storedOf_valueOf, storedOf_cmul14]
    rfl
  · simp only [bfly, storedOf_csub, storedOf_valueOf, storedOf_cmul14]
    rfl

/-! ### The frame of a command (R200, R346, R361, R370, R408) -/

/-- The registers that some command writes are the only ones that differ. -/
theorem CommandEffect.frame {s t : State} (he : CommandEffect s t) :
    t = { s with
          cuR := t.cuR, cuS := t.cuS, cuM := t.cuM, event := t.event, job := t.job, jobAlg := t.jobAlg,
          jobFt := t.jobFt, jobGt := t.jobGt, jobFidx := t.jobFidx, seqLen := t.seqLen, lastChar := t.lastChar,
          confirmPend := t.confirmPend } := by
  cases he with
  | refused | results _ _ _ | started _ _ _ | seqReset => rfl
  | confirm => obtain ⟨-, hs⟩ | ⟨-, hs⟩ := s.requestConfirm_cases <;> rw [hs]

/-- Settles O20: the bytes of memory are read from two of the registers that no command writes. -/
theorem commandWriteFrame : Obligations.CommandWriteFrame := by
  intro i s t h
  have hframe := (exec_effect h).frame
  have hmem : t.mem = s.mem := by rw [hframe]
  have hepoch : t.epoch = s.epoch := by rw [hframe]
  exact ⟨State.readByte_congr hmem hepoch, hframe⟩

end Sys2Proof.Machine

namespace Sys2Proof.Machine

/-! ## Acquisition (R236-R249)

What each step of the sampler and the channel does to the state, as one equation; then which steps can touch a frame
that has been handed off. -/

/-! ### The conversion (R237) -/

theorem sat16_eq (v : Int) : sat 16 v = max (-32768) (min 32767 v) := by
  simp only [sat]
  omega

/-- A conversion saturates, so its 16-bit pattern is exact. -/
theorem State.convert_toInt (s : State) (raw : Half) :
    (s.convert raw).toInt =
      max (-32768) (min 32767 (((raw.toNat * s.maxAmp.toNat / s.rawFs.toNat : Nat) : Int) - s.halfAmp.toInt)) := by
  rw [← sat16_eq]
  exact BitVec.toInt_ofInt_eq_self (by decide) (sat16_range _).1 (Int.lt_of_le_of_lt (sat16_range _).2 (by decide))

/-- `MAX_AMP` and `RAW_FS` reset to the same value, which is not 0: the quotient is the reading. -/
theorem convert_afterReset {p : Params} (hp : p.legal = true) (e : Nat) (raw : Half) :
    ((State.afterReset p e).convert raw).toInt =
      max (-32768) (min 32767 ((raw.toNat : Int) - (BitVec.ofNat 16 (2 ^ (p.rawBits - 1))).toInt)) := by
  have hpos : 0 < (State.afterReset p e).rawFs.toNat :=
    Nat.pos_of_ne_zero fun h0 => (inv_afterReset hp e).rawFs (BitVec.eq_of_toNat_eq h0)
  have hmax : (State.afterReset p e).maxAmp = (State.afterReset p e).rawFs := rfl
  rw [State.convert_toInt, hmax, Nat.mul_div_cancel _ hpos]
  rfl

/-- Settles O42: with the reset values the quotient is the reading, and only `HALF_AMP` depends on `RAW_BITS`. -/
theorem conversionAtReset : Obligations.ConversionAtReset := by
  refine ⟨fun s raw hfs => ?_, fun p e raw hp hraw => ?_⟩
  · have hpos : 0 < s.rawFs.toNat := Nat.pos_of_ne_zero fun h0 => hfs (BitVec.eq_of_toNat_eq h0)
    exact ⟨_, Nat.div_mul_le_self _ _, Nat.lt_mul_of_div_lt (Nat.lt_succ_self _) hpos, s.convert_toInt raw⟩
  rw [convert_afterReset hp]
  refine ⟨fun hbits => ?_, fun hbits => ?_⟩
  · have hone : 1 ≤ p.rawBits := by
      simp only [Params.legal, decide_eq_true_eq] at hp
      omega
    have hhalf : 2 ^ (p.rawBits - 1) ≤ 2 ^ 14 := Nat.pow_le_pow_right (by decide) (by omega)
    have hfull : 2 ^ p.rawBits = 2 * 2 ^ (p.rawBits - 1) := by
      rw [← Nat.pow_succ', Nat.succ_eq_add_one, Nat.sub_add_cancel hone]
    have hamp : (BitVec.ofNat 16 (2 ^ (p.rawBits - 1))).toInt = (2 ^ (p.rawBits - 1) : Nat) := by
      rw [← BitVec.ofInt_natCast]
      exact BitVec.toInt_ofInt_eq_self (by decide) (by omega) (by omega)
    rw [hamp, show (2 : Int) ^ (p.rawBits - 1) = (2 ^ (p.rawBits - 1) : Nat) from (Nat.cast_pow 2 _).symm]
    omega
  · have hamp : (BitVec.ofNat 16 (2 ^ (p.rawBits - 1))).toInt = -32768 := by rw [hbits]; rfl
    rw [hamp]
    omega

/-! ### Calibration ticks (R238-R240) -/

theorem State.reportBand_eq (s : State) (raw : Half) :
    s.reportBand raw =
      { s with
        band := BitVec.ofNat 4 (Config.calBandFn raw).val
        event := s.event ||| (if BitVec.ofNat 4 (Config.calBandFn raw).val = s.band then 0#9 else 0x080#9) } := by
  simp only [State.reportBand]
  split
  case isTrue h => rw [h, BitVec.or_zero]
  case isFalse => rfl

theorem State.reportStraddle_eq (s : State) (strad : Bool) :
    s.reportStraddle strad =
      { s with straddle := strad, event := s.event ||| (if strad then 0x004#9 else 0#9) } := by
  cases strad with
  | false => simp [State.reportStraddle, State.signalIf]
  | true => rfl

theorem State.finalise_eq (s : State) (raw : Half) (strad : Bool) :
    s.finalise raw strad =
      { s with
        calDone := s.calDone || (s.confirmPend && !strad)
        confirmPend := s.confirmPend && strad
        midpoint := if s.confirmPend && !strad then Config.calMaskFn raw else s.midpoint
        event := s.event ||| (if s.confirmPend && !strad then 0x100#9 else 0#9) } := by
  cases hfin : s.confirmPend && !strad with
  | true =>
    obtain ⟨hp, rfl⟩ : s.confirmPend = true ∧ strad = false := by simpa using hfin
    simp only [State.finalise, hfin, Bool.or_true, Bool.and_false, if_true]
    rfl
  | false =>
    have hpend : (s.confirmPend && strad) = s.confirmPend := by
      revert hfin
      cases s.confirmPend <;> cases strad <;> decide
    simp only [State.finalise, hfin, hpend, Bool.or_false, Bool.false_eq_true, if_false, BitVec.or_zero]

/-- Settles O40: the three reports one after the other, the first two of which leave `CONFIRM_PEND` alone. -/
theorem calibrationTick : Obligations.CalibrationTick := by
  intro s raw hc
  simp only [act, State.tick, hc, State.calTick, State.reportBand_eq, State.reportStraddle_eq, State.finalise_eq,
    Bool.false_or, Bool.false_eq_true, if_false]
  rfl

/-! ### Frame ticks (R242, R243) -/

theorem State.handOff_tokenIn {s : State} (h : s.rdyS = false) :
    s.handOff =
      { s with
        fill := 0#9, readyIdx := s.activeIdx, activeIdx := s.activeIdx.other, rdyS := true, setPend := true } := by
  simp only [State.handOff, h, Bool.false_eq_true, if_false]
  rfl

theorem State.handOff_tokenOut {s : State} (h : s.rdyS = true) :
    s.handOff = { s with fill := 0#9, event := s.event ||| 0x008#9 } := by
  simp only [State.handOff, h, if_true]
  rfl

theorem State.frameTick_filling {s : State} (h : s.fill.toNat < 511) (v : Half) :
    s.frameTick v = { s.setSample s.activeIdx s.fill.toNat v with fill := s.fill + 1 } := if_pos h

theorem State.frameTick_handOff {s : State} (h : ¬ s.fill.toNat < 511) (htoken : s.rdyS = false) (v : Half) :
    s.frameTick v =
      { s.setSample s.activeIdx s.fill.toNat v with
        fill := 0#9, readyIdx := s.activeIdx, activeIdx := s.activeIdx.other, rdyS := true, setPend := true } :=
  (if_neg h).trans (State.handOff_tokenIn (s := s.setSample s.activeIdx s.fill.toNat v) htoken)

theorem State.frameTick_overrun {s : State} (h : ¬ s.fill.toNat < 511) (htoken : s.rdyS = true) (v : Half) :
    s.frameTick v = { s.setSample s.activeIdx s.fill.toNat v with fill := 0#9, event := s.event ||| 0x008#9 } :=
  (if_neg h).trans (State.handOff_tokenOut (s := s.setSample s.activeIdx s.fill.toNat v) htoken)

/-- A hand-off moves no sample: it designates frames anew. -/
theorem State.handOff_ram (s : State) : s.handOff.mem = s.mem ∧ s.handOff.epoch = s.epoch := by
  unfold State.handOff
  split <;> exact ⟨rfl, rfl⟩

/-- Whatever else a frame tick does, the RAMs after it are those after the store of its sample. -/
theorem State.frameTick_ram (s : State) (v : Half) :
    (s.frameTick v).mem = (s.setSample s.activeIdx s.fill.toNat v).mem ∧ (s.frameTick v).epoch = s.epoch := by
  simp only [State.frameTick]
  split
  case isTrue => exact ⟨rfl, rfl⟩
  case isFalse => exact State.handOff_ram _

/-- The store of a sample touches its two bytes and no other. -/
theorem State.readByte_setSample_other (s : State) {f : FrameIx} {n a : Nat} (h0 : a ≠ sampleAddr f n)
    (h1 : a ≠ sampleAddr f n + 1) (v : Half) : (s.setSample f n v).readByte a = s.readByte a := by
  refine s.readByte_writeBytes_outside ?_
  have hlen : (halfBytes v).length = 2 := rfl
  omega

/-- Settles O41: the RAMs hold the store; the rest is the count below the 512th sample, and the hand-off at it. -/
theorem frameTick : Obligations.FrameTick := by
  intro s raw hc
  obtain ⟨hmem, hepoch⟩ := s.frameTick_ram (s.convert (s.portReading raw))
  refine ⟨s.frameTick (s.convert (s.portReading raw)), ?tick, ?sample, ?frame, ?filling, ?handOff, ?overrun⟩
  case tick => simp only [act, State.tick, hc, if_true]
  case sample => exact (State.sample_congr hmem hepoch _ _).trans (s.sample_setSample_same _ _ _)
  case frame =>
    exact fun a h0 h1 => (State.readByte_congr hmem hepoch a).trans (s.readByte_setSample_other h0 h1 _)
  case filling =>
    intro hfill
    rw [State.frameTick_filling hfill]
    rfl
  case handOff =>
    intro hfill htoken
    rw [State.frameTick_handOff (by omega) htoken]
    rfl
  case overrun =>
    intro hfill htoken
    rw [State.frameTick_overrun (by omega) htoken]
    rfl

/-! ### The internal steps (R241, R244, R247, R362) -/

/-- Settles O43: only the pin edge looks at the state, at `CAL_DONE`. -/
theorem internalSteps : Obligations.InternalSteps := by
  intro s
  refine ⟨fun hc => ?edge, fun hc => ?calibrated, rfl, rfl, rfl⟩
  case edge => simp [act, State.confirmEdge, State.requestConfirm, hc]
  case calibrated => rw [act, State.confirmEdge, State.requestConfirm_calibrated hc]

/-! ### The frame that has been handed off (R111, R245, R249)

The sampler writes the active frame only, which is never the one handed off (R47). Every other write to the RAMs lies
below the frames, in `SEQ`, or above them, in `SPEC`. -/

/-- The samples of frame `f` and both designations of the frame handed off are in `t` as they are in `s`. -/
structure FrameKept (f : FrameIx) (s t : State) : Prop where
  samples : ∀ n, n < 512 → t.sample f n = s.sample f n
  readyIdx : t.readyIdx = s.readyIdx
  ridxP : t.ridxP = s.ridxP

theorem FrameKept.of_eq {f : FrameIx} {s t : State} (hmem : t.mem = s.mem) (hepoch : t.epoch = s.epoch)
    (hready : t.readyIdx = s.readyIdx) (hridx : t.ridxP = s.ridxP) : FrameKept f s t where
  samples n _ := State.sample_congr hmem hepoch f n
  readyIdx := hready
  ridxP := hridx

theorem FrameKept.trans {f : FrameIx} {s t u : State} (h : FrameKept f s t) (h' : FrameKept f t u) :
    FrameKept f s u where
  samples n hn := (h'.samples n hn).trans (h.samples n hn)
  readyIdx := h'.readyIdx.trans h.readyIdx
  ridxP := h'.ridxP.trans h.ridxP

/-- The frames' samples lie in 0x1000 .. 0x27FF (R141). -/
theorem sampleAddr_range {f : FrameIx} {n : Nat} (hn : n < 512) :
    0x1000 ≤ sampleAddr f n ∧ sampleAddr f n + 2 ≤ 0x2800 := by
  cases f <;> simp only [sampleAddr, FrameIx.index] <;> omega

/-- A write below or above the frames' window keeps every frame. -/
theorem FrameKept.writeBytes {f : FrameIx} (s : State) {a : Nat} {bs : List Byte}
    (ha : a + bs.length ≤ 0x1000 ∨ 0x2800 ≤ a) : FrameKept f s (s.writeBytes a bs) where
  samples n hn := by
    obtain ⟨hlo, hhi⟩ := sampleAddr_range (f := f) hn
    rw [State.sample, State.readHalf, s.readByte_writeBytes_outside (by omega),
      s.readByte_writeBytes_outside (by omega)]
    rfl
  readyIdx := rfl
  ridxP := rfl

theorem FrameKept.setSeqChar {f : FrameIx} (s : State) (i c : Byte) : FrameKept f s (s.setSeqChar i.toNat c) :=
  .writeBytes s (.inl (by
    have hi := i.isLt
    simp only [seqAddr, List.length_cons, List.length_nil]
    omega))

theorem FrameKept.setSpectrum {f : FrameIx} (s : State) (bins : List Cx) : FrameKept f s (s.setSpectrum bins) :=
  .writeBytes s (.inr (by simp [binAddr]))

/-! #### Commands and the bus -/

theorem CommandEffect.frameKept {f : FrameIx} {s t : State} (he : CommandEffect s t) : FrameKept f s t := by
  have hframe := he.frame
  exact .of_eq (by rw [hframe]) (by rw [hframe]) (by rw [hframe]) (by rw [hframe])

theorem writeReg_frameKept {f : FrameIx} (s : State) (l : Loc) (d : Word) : FrameKept f s (writeReg s l d) := by
  cases l with
  | specRe k | specIm k =>
    simp only [writeReg]
    split
    case isTrue => exact .writeBytes s (.inr (by simp only [binAddr]; omega))
    case isFalse => exact .of_eq rfl rfl rfl rfl
  | tone | energyLo _ | energyHi _ | maxAmp | halfAmp | rawFs | calSpan =>
    simp only [writeReg]
    split <;> exact .of_eq rfl rfl rfl rfl
  | ctrl | event | irqEn | fftThresh | goeThreshLo | goeThreshHi | cuARe | cuAIm | cuBRe | cuBIm | id | param | status
  | cmd | result | lastChar | seqLen | midpoint | cuRRe | cuRIm | cuSRe | cuSIm | cuMLo | cuMHi | grom _ | seq _
  | frame _ _ | twrom _ => exact .of_eq rfl rfl rfl rfl

theorem busWrite_frameKept {f : FrameIx} {s t : State} {off : Half} {lanes : BitVec 4} {d : Word}
    (ht : busWrite off lanes d s = .next t) : FrameKept f s t := by
  have hresp : FrameKept f s { s with resp := .write false } := .of_eq rfl rfl rfl rfl
  obtain rfl | ⟨-, he⟩ | ⟨l, -, rfl⟩ := busWrite_cases ht
  · exact .of_eq rfl rfl rfl rfl
  · exact hresp.trans he.frameKept
  · exact hresp.trans (writeReg_frameKept _ l d)

theorem State.busRead_frameKept {f : FrameIx} (s : State) (off : Half) (lanes : BitVec 4) :
    FrameKept f s (s.busRead off lanes) := by
  obtain hs | ⟨_, -, hs⟩ | ⟨_, -, hs⟩ := busRead_cases s off lanes
  all_goals
    rw [hs]
    exact .of_eq rfl rfl rfl rfl

/-! #### Jobs -/

theorem State.endJob_frameKept {f : FrameIx} (s : State) : FrameKept f s s.endJob := .of_eq rfl rfl rfl rfl

theorem State.runFft_frameKept {f : FrameIx} (s : State) : FrameKept f s s.runFft := .setSpectrum s _

theorem State.runGoertzel_frameKept {f : FrameIx} (s : State) : FrameKept f s s.runGoertzel :=
  .of_eq rfl rfl rfl rfl

theorem State.runFdet_frameKept {f : FrameIx} (s : State) : FrameKept f s s.runFdet :=
  .of_eq s.runFdet_mem s.runFdet_epoch s.runFdet_readyIdx s.runFdet_ridxP

theorem State.runGdet_frameKept {f : FrameIx} (s : State) : FrameKept f s s.runGdet :=
  .of_eq s.runGdet_mem s.runGdet_epoch s.runGdet_readyIdx s.runGdet_ridxP

theorem State.runSelected_frameKept {f : FrameIx} (s : State) : FrameKept f s s.runSelected := by
  unfold State.runSelected
  split
  case h_1 => exact s.runFft_frameKept.trans s.runFft.runFdet_frameKept
  case h_2 => exact s.runGoertzel_frameKept.trans s.runGoertzel.runGdet_frameKept

/-- A decode writes the RAMs only to append its symbol. -/
theorem DecodeEffect.frameKept {f : FrameIx} {s t : State} (he : DecodeEffect s t) : FrameKept f s t := by
  cases he with
  | noise | multitone | hold _ | overflow _ => exact .of_eq rfl rfl rfl rfl
  | accepted sym _ => exact (FrameKept.setSeqChar s s.seqLen sym).trans (.of_eq rfl rfl rfl rfl)

theorem State.runDecode_frameKept {f : FrameIx} (s : State) : FrameKept f s s.runDecode :=
  (s.decodeStep_effect s.tone.low.toInt s.tone.high.toInt).frameKept

/-- The release hands the token back and leaves the frame and its designation as they are (R246). -/
theorem State.releaseToken_frameKept {f : FrameIx} (s : State) : FrameKept f s s.releaseToken := by
  unfold State.releaseToken
  split <;> exact .of_eq rfl rfl rfl rfl

theorem State.completeJob_frameKept {f : FrameIx} (s : State) : FrameKept f s s.completeJob := by
  unfold State.completeJob
  split
  case h_1 => exact .of_eq rfl rfl rfl rfl
  case h_2 => exact s.runFft_frameKept.trans (State.endJob_frameKept _)
  case h_3 => exact s.runGoertzel_frameKept.trans (State.endJob_frameKept _)
  case h_4 => exact s.runFdet_frameKept.trans (State.endJob_frameKept _)
  case h_5 => exact s.runGdet_frameKept.trans (State.endJob_frameKept _)
  case h_6 => exact s.runDecode_frameKept.trans (State.endJob_frameKept _)
  case h_7 =>
    exact ((s.runSelected_frameKept.trans (State.runDecode_frameKept _)).trans (State.releaseToken_frameKept _)).trans
      (State.endJob_frameKept _)
  case h_8 => exact s.releaseToken_frameKept.trans (State.endJob_frameKept _)

/-! #### The sampler -/

theorem State.requestConfirm_frameKept {f : FrameIx} (s : State) : FrameKept f s s.requestConfirm :=
  CommandEffect.confirm.frameKept

theorem State.calTick_frameKept {f : FrameIx} (s : State) (raw v : Half) : FrameKept f s (s.calTick raw v) := by
  simp only [State.calTick, State.reportBand_eq, State.reportStraddle_eq, State.finalise_eq]
  exact .of_eq rfl rfl rfl rfl

theorem FrameKept.setSample {s : State} {f : FrameIx} (hf : f ≠ s.activeIdx) (v : Half) :
    FrameKept f s (s.setSample s.activeIdx s.fill.toNat v) where
  samples _ hn := s.sample_setSample_other v s.fill.isLt hn (.inl hf)
  readyIdx := rfl
  ridxP := rfl

/-- While the token is out, the 512th sample hands no frame off (R243). -/
theorem State.frameTick_frameKept {s : State} {f : FrameIx} (htoken : s.rdyS = true) (hf : f ≠ s.activeIdx)
    (v : Half) : FrameKept f s (s.frameTick v) := by
  have hstore := FrameKept.setSample hf v
  by_cases hfill : s.fill.toNat < 511
  · rw [State.frameTick_filling hfill]
    exact hstore.trans (.of_eq rfl rfl rfl rfl)
  · rw [State.frameTick_overrun hfill htoken]
    exact hstore.trans (.of_eq rfl rfl rfl rfl)

theorem State.tick_frameKept {s : State} {f : FrameIx} (htoken : s.rdyS = true) (hf : f ≠ s.activeIdx) (raw : Half) :
    FrameKept f s (s.tick raw) := by
  unfold State.tick
  split
  case isTrue => exact State.frameTick_frameKept htoken hf _
  case isFalse => exact s.calTick_frameKept raw _

/-! #### Every step -/

/-- While the token is out, every step but a reset and the delivery of the token keeps the frame that is not active. -/
theorem act_frameKept {s t : State} {a : Action} {f : FrameIx} (htoken : s.rdyS = true) (hf : f ≠ s.activeIdx)
    (hreset : a ≠ .reset) (hset : a ≠ .deliverSet) (ht : act a s = .next t) : FrameKept f s t := by
  cases a with
  | tick raw => cases ht; exact State.tick_frameKept htoken hf _
  | confirmEdge => cases ht; exact s.requestConfirm_frameKept
  | deliverSet => exact absurd rfl hset
  | deliverClr | autoStart => cases ht; exact .of_eq rfl rfl rfl rfl
  | complete => cases ht; exact s.completeJob_frameKept
  | busRead off lanes => cases ht; exact s.busRead_frameKept off lanes
  | busWrite off lanes d => exact busWrite_frameKept ht
  | reset => exact absurd rfl hreset

/-- A frame on its way to the consumer or with it: the token is out, and the frame is not the active one. -/
theorem Inv.handedOff {s : State} (h : Inv s) (hout : s.setPend = true ∨ s.rdyP = true) :
    s.rdyS = true ∧ s.readyIdx ≠ s.activeIdx := by
  refine ⟨?_, h.otherFrame hout⟩
  obtain hset | hrdy := hout
  · exact (h.of_setPend hset).1
  · exact (h.of_rdyP hrdy).1

/-- The delivery of the token copies the designation to the P domain; it changes neither the one it copies nor a
sample. -/
theorem act_readyFrame {s t : State} {a : Action} (h : Inv s) (hreset : a ≠ .reset) (ht : act a s = .next t)
    (hout : s.setPend = true ∨ s.rdyP = true) :
    t.readyIdx = s.readyIdx ∧ ∀ n, n < 512 → t.sample s.readyIdx n = s.sample s.readyIdx n := by
  by_cases hset : a = .deliverSet
  · subst hset
    cases ht
    exact ⟨rfl, fun n _ => State.sample_congr rfl rfl _ n⟩
  · obtain ⟨htoken, hother⟩ := h.handedOff hout
    have hkept := act_frameKept htoken hother hreset hset ht
    exact ⟨hkept.readyIdx, hkept.samples⟩

/-- While the token is with the P domain there is none to deliver, so its copy of the designation stays. -/
theorem act_ridxP {s t : State} {a : Action} (h : Inv s) (hreset : a ≠ .reset) (hen : enabled a s = true)
    (ht : act a s = .next t) (hrdy : s.rdyP = true) : t.ridxP = s.ridxP := by
  obtain ⟨htoken, hnoSet, -⟩ := h.of_rdyP hrdy
  have hset : a ≠ .deliverSet := by
    rintro rfl
    exact absurd (show s.setPend = true from hen) (by simp [hnoSet])
  exact (act_frameKept htoken (h.otherFrame (.inr hrdy)) hreset hset ht).ridxP

/-- Settles O46: the frame with the P domain and the one a job reads are the frame handed off (R47, R245). -/
theorem readyFrameStable : Obligations.ReadyFrameStable := by
  intro s t a h hreset hen ht
  have hready := act_readyFrame h hreset ht
  have hheld : s.rdyP = true → ∀ n, n < 512 → t.sample s.ridxP n = s.sample s.ridxP n := fun hrdy => by
    rw [h.sameIndex hrdy]
    exact (hready (.inr hrdy)).2
  refine ⟨hready, fun hrdy => ⟨act_ridxP h hreset hen ht hrdy, hheld hrdy⟩, fun hjob => ?_⟩
  obtain ⟨hrdy, hfidx⟩ := h.jobFrame hjob
  rw [hfidx]
  exact hheld hrdy

end Sys2Proof.Machine

namespace Sys2Proof.Machine

/-! ## The FFT engine (R280-R289) -/

/-! ### The twiddle ROM (R280, R390) -/

/-- The value of a ROM word in Q2.14: the real part in the low half, the imaginary part in the high half (R168). -/
def twEntry (w : Nat) : Cx where
  re := ((BitVec.ofNat 32 w).extractLsb' 0 16).toInt
  im := ((BitVec.ofNat 32 w).extractLsb' 16 16).toInt

/-- The twiddle factors as one list, so that a fact about the whole table is evaluated in one pass over it. -/
def twTable : List Cx := twWords.map twEntry

theorem length_twWords : twWords.length = 512 := by decide +kernel

theorem twTable_getElem? {k : Nat} (hk : k < 512) : twTable[k]? = some (tw k) := by
  rw [twTable, List.getElem?_map, List.getElem?_eq_getElem (by rwa [length_twWords]), Option.map_some]
  simp only [tw, twRomWord, twEntry, List.getD_eq_getElem?_getD, List.getElem?_eq_getElem (length_twWords.symm ▸ hk),
    Option.getD_some]

/-- Half a turn further the factor is the opposite one. -/
theorem twTable_drop_halfTurn :
    twTable.drop 256 = (twTable.take 256).map fun z => ⟨-z.re, -z.im⟩ := by decide +kernel

/-- Read backwards from the end of the turn the factors are the conjugates. -/
theorem twTable_reverse :
    twTable.drop 1 = (twTable.drop 1).reverse.map fun z => ⟨z.re, -z.im⟩ := by decide +kernel

/-- Every factor has components within 1 and a modulus within 1 + 2^-14, in Q2.14 (R280, R285). -/
theorem twTable_bounded : ∀ z ∈ twTable,
    (z.re.natAbs ≤ 16384 ∧ z.im.natAbs ≤ 16384) ∧ z.re * z.re + z.im * z.im ≤ 16385 * 16385 := by
  decide +kernel

theorem tw_mem_twTable {k : Nat} (hk : k < 512) : tw k ∈ twTable := List.mem_of_getElem? (twTable_getElem? hk)

theorem tw_halfTurn {k : Nat} (hk : k < 256) : tw (k + 256) = ⟨-(tw k).re, -(tw k).im⟩ := by
  have h := congrArg (·[k]?) twTable_drop_halfTurn
  simp only [List.getElem?_drop, List.getElem?_map, List.getElem?_take_of_lt hk] at h
  rw [Nat.add_comm, twTable_getElem? (by omega), twTable_getElem? (by omega)] at h
  exact Option.some.inj h

theorem tw_conj {k : Nat} (h1 : 1 ≤ k) (hk : k < 512) : tw (512 - k) = ⟨(tw k).re, -(tw k).im⟩ := by
  have hlen : (twTable.drop 1).length = 511 := by simp [twTable, length_twWords]
  have h := congrArg (·[511 - k]?) twTable_reverse
  simp only [List.getElem?_map] at h
  rw [List.getElem?_reverse (by omega), hlen, List.getElem?_drop, List.getElem?_drop,
    show 1 + (511 - k) = 512 - k by omega, show 1 + (511 - 1 - (511 - k)) = k by omega,
    twTable_getElem? (by omega), twTable_getElem? (by omega)] at h
  exact Option.some.inj h

/-- Settles O58: the symmetries are those of the whole table, the known entries are looked up. -/
theorem romTables : Obligations.RomTables := by
  refine ⟨?_, ?_, ?_, ?_, ?_, fun _ => tw_halfTurn, fun _ h1 hk => tw_conj h1 (hk.trans (by decide)),
    fun k hk => (twTable_bounded _ (tw_mem_twTable hk)).1, ?_⟩ <;>
    decide +kernel

/-! ### The commit of the transform (R284, R363) -/

/-- The written spectrum fills its window, so every byte outside the window is kept (R141, R284). -/
theorem State.readByte_setSpectrum_outside (s : State) {bins : List Cx} (hlen : bins.length = 512) {a : Nat}
    (ha : a < 0x4000 ∨ 0x5000 ≤ a) : (s.setSpectrum bins).readByte a = s.readByte a := by
  refine s.readByte_writeBytes_outside ?_
  simp only [binAddr, length_flatMap_binBytes, hlen]
  omega

/-- Settles O21: the spectrum written reads back bin by bin (R284) and fills its window exactly. -/
theorem fftRunCommits : Obligations.FftRunCommits := by
  intro s hjob
  have hlen := length_fft (s.length_frameSamples s.jobFidx)
  refine ⟨by simp [enabled, State.busy, hjob], completeFftRun s, by simp only [act, State.completeJob, hjob],
    ?_, ?_, rfl⟩
  · intro k hk
    have hbin : (fft (s.frameSamples s.jobFidx))[k]? = some ((fft (s.frameSamples s.jobFidx))[k]'(hlen ▸ hk)) :=
      List.getElem?_eq_getElem _
    rw [hbin, Option.map_some, ← s.specBin_setSpectrum hbin]
    exact congrArg some (State.specBin_congr rfl rfl k)
  · intro a ha
    exact (State.readByte_congr rfl rfl a).trans (s.readByte_setSpectrum_outside hlen ha)

/-! ### The engine's stages are those of the recurrence (R281, R283) -/

/-- `Y_s` of R281 as the engine holds it: `512 / 2^s` sub-transforms of `2^s` values each. -/
def subTransforms (x : Nat → Int) (s : Nat) : List (List Cx) :=
  (List.range (512 / 2 ^ s)).map fun j => (List.range (2 ^ s)).map (subTransform x s j)

theorem subTransform_succ_low (x : Nat → Int) (j : Nat) {s k : Nat} (hk : k < 2 ^ s) :
    subTransform x (s + 1) j k =
      (bfly (subTransform x s j k) (subTransform x s (j + 256 / 2 ^ s) k) (k * (256 / 2 ^ s))).1 := by
  rw [subTransform, if_pos hk]

theorem subTransform_succ_high (x : Nat → Int) (s j k : Nat) :
    subTransform x (s + 1) j (2 ^ s + k) =
      (bfly (subTransform x s j k) (subTransform x s (j + 256 / 2 ^ s) k) (k * (256 / 2 ^ s))).2 := by
  rw [subTransform, if_neg (by omega), Nat.add_sub_cancel_left]

/-- The butterflies of two sequences given by their positions from `k` on. -/
theorem butterflies_map_range' (h : Nat) (f g : Nat → Cx) (k n : Nat) :
    butterflies h k ((List.range' k n).map f) ((List.range' k n).map g) =
      (List.range' k n).map fun i => bfly (f i) (g i) (i * h) := by
  induction n generalizing k with
  | zero => rfl
  | succ n ih => simp only [List.range'_succ, List.map_cons, butterflies, ih]

/-- A pair of sub-transforms of stage `s` makes the one of stage `s + 1` (R281). -/
theorem combinePair_subTransforms (x : Nat → Int) (s j : Nat) :
    combinePair (256 / 2 ^ s) ((List.range (2 ^ s)).map (subTransform x s j))
        ((List.range (2 ^ s)).map (subTransform x s (j + 256 / 2 ^ s))) =
      (List.range (2 ^ (s + 1))).map (subTransform x (s + 1) j) := by
  rw [combinePair, List.range_eq_range', butterflies_map_range', ← List.range_eq_range', pow_succ, mul_two,
    List.range_add, List.map_append, List.map_map, List.map_map, List.map_map]
  congr 1 <;> refine List.map_congr_left fun k hk => ?_
  · exact (subTransform_succ_low x j (List.mem_range.mp hk)).symm
  · exact (subTransform_succ_high x s j k).symm

/-- The pairing of a stage: position `j` of the first half with position `j` of the second. -/
theorem zipWith_halves_map_range {α β : Type} (f : α → α → β) (g : Nat → α) (n : Nat) :
    List.zipWith f (((List.range (n + n)).map g).take n) (((List.range (n + n)).map g).drop n) =
      (List.range n).map fun j => f (g j) (g (j + n)) := by
  have hlen : ((List.range n).map g).length = n := by simp
  rw [List.range_add, List.map_append, List.take_left' hlen, List.drop_left' hlen, List.map_map, List.zipWith_map,
    List.zipWith_self]
  simp only [Function.comp_apply, Nat.add_comm n]

/-- At every stage but the last one the sub-transforms come in pairs of stride `256 / 2^s`. -/
theorem subTransforms_count {s : Nat} (hs : s < 9) : 512 / 2 ^ s = 256 / 2 ^ s + 256 / 2 ^ s := by
  interval_cases s <;> rfl

theorem subTransforms_count_succ (s : Nat) : 512 / 2 ^ (s + 1) = 256 / 2 ^ s := by
  rw [pow_succ', ← Nat.div_div_eq_div_mul]

theorem fftStage_subTransforms (x : Nat → Int) {s : Nat} (hs : s < 9) :
    fftStage (subTransforms x s) = subTransforms x (s + 1) := by
  have hhalf : (subTransforms x s).length / 2 = 256 / 2 ^ s := by
    rw [subTransforms, List.length_map, List.length_range, subTransforms_count hs]
    omega
  rw [fftStage, hhalf, subTransforms, subTransforms_count hs, zipWith_halves_map_range, subTransforms,
    subTransforms_count_succ]
  exact List.map_congr_left fun j _ => combinePair_subTransforms x s j

theorem fftStages_subTransforms (x : Nat → Int) {n s : Nat} (hs : s + n ≤ 9) :
    fftStages n (subTransforms x s) = subTransforms x (s + n) := by
  induction n generalizing s with
  | zero => rfl
  | succ n ih => rw [fftStages, fftStage_subTransforms x (by omega), ih (by omega), Nat.add_right_comm, Nat.add_assoc]

theorem fftStart_eq_subTransforms {x : List Int} (hx : x.length = 512) :
    fftStart x = subTransforms (fun n => x.getD n 0) 0 := by
  have hsamples : (List.range 512).map (fun n => x.getD n 0) = x := by
    refine List.ext_getElem (by simp [hx]) fun n hn hn' => ?_
    simp [hn']
  calc fftStart x = fftStart ((List.range 512).map fun n => x.getD n 0) := by rw [hsamples]
    _ = subTransforms (fun n => x.getD n 0) 0 := by
      simp only [fftStart, subTransforms, List.map_map]
      rfl

/-- The transform, bin by bin in natural order (R283). -/
theorem fft_eq_map_subTransform {x : List Int} (hx : x.length = 512) :
    fft x = (List.range 512).map (subTransform (fun n => x.getD n 0) 9 0) := by
  rw [fft, fftStart_eq_subTransforms hx, fftStages_subTransforms _ (by decide)]
  simp [subTransforms]

/-- Settles O31, from the engine's nine stages as `Y_0` to `Y_9` of R281. -/
theorem fftIsTheRecurrence : Obligations.FftIsTheRecurrence := by
  intro x hx
  refine ⟨length_fft hx, fun k hk => ?_⟩
  rw [fft_eq_map_subTransform hx, List.getElem?_map, List.getElem?_range hk, Option.map_some]

/-! ### No wrap changes a value (R285)

The modulus of a sub-transform at most doubles at each stage, up to the factor 1 + 2^-14 of a twiddle's modulus and the
two roundings. The recurrence without wraps is bounded first; then every wrap is seen to have nothing to do. -/

/-- The complex number of a pair of integers. -/
noncomputable def complexOf (z : Cx) : ℂ := ⟨z.re, z.im⟩

theorem natAbs_le_of_norm_complexOf_le {z : Cx} {n : Nat} (h : ‖complexOf z‖ ≤ n) :
    z.re.natAbs ≤ n ∧ z.im.natAbs ≤ n := by
  have hre := (Complex.abs_re_le_norm (complexOf z)).trans h
  have him := (Complex.abs_im_le_norm (complexOf z)).trans h
  simp only [complexOf] at hre him
  constructor
  · rw [← Nat.cast_le (α := ℝ), Nat.cast_natAbs, Int.cast_abs]
    exact hre
  · rw [← Nat.cast_le (α := ℝ), Nat.cast_natAbs, Int.cast_abs]
    exact him

/-- The product of R201 by a Q2.14 factor without its wrap. -/
def exactMul14 (b w : Cx) : Cx where
  re := rnd (b.re * w.re - b.im * w.im) 14
  im := rnd (b.re * w.im + b.im * w.re) 14

theorem exactBfly_eq (a b : Cx) (m : Nat) :
    exactBfly a b m =
      ({ re := a.re + (exactMul14 b (tw m)).re, im := a.im + (exactMul14 b (tw m)).im },
        { re := a.re - (exactMul14 b (tw m)).re, im := a.im - (exactMul14 b (tw m)).im }) := rfl

theorem exactBfly_fst_complexOf (a b : Cx) (m : Nat) :
    complexOf (exactBfly a b m).1 = complexOf a + complexOf (exactMul14 b (tw m)) := by
  apply Complex.ext <;> simp [exactBfly_eq, complexOf]

theorem exactBfly_snd_complexOf (a b : Cx) (m : Nat) :
    complexOf (exactBfly a b m).2 = complexOf a - complexOf (exactMul14 b (tw m)) := by
  apply Complex.ext <;> simp [exactBfly_eq, complexOf]

/-- Every entry of the ROM, and the value 0 beyond it, has a modulus within 1 + 2^-14, in Q2.14. -/
theorem norm_tw_le (m : Nat) : ‖complexOf (tw m)‖ ≤ 16385 := by
  have hsq : (tw m).re * (tw m).re + (tw m).im * (tw m).im ≤ 16385 * 16385 := by
    by_cases hm : m < 512
    · exact (twTable_bounded _ (tw_mem_twTable hm)).2
    · have hzero : tw m = ⟨0, 0⟩ := by
        simp only [tw, twRomWord]
        rw [List.getD_eq_default _ _ (by rw [length_twWords]; omega)]
        rfl
      rw [hzero]
      decide
  rw [← abs_of_nonneg (norm_nonneg _), ← abs_of_nonneg (show (0 : ℝ) ≤ 16385 by norm_num), ← sq_le_sq,
    Complex.sq_norm, Complex.normSq_apply]
  simp only [complexOf, sq]
  exact_mod_cast hsq

/-- The rounding of a product moves it by at most 1/2 in each component (R12), hence by at most 1. -/
theorem norm_exactMul14_sub_le (b w : Cx) :
    ‖16384 * complexOf (exactMul14 b w) - complexOf b * complexOf w‖ ≤ 16384 := by
  have component : ∀ v : Int, |16384 * ((rnd v 14 : Int) : ℝ) - (v : ℝ)| ≤ 8192 := fun v => by
    have h := rnd14_spec v
    have habs : |16384 * rnd v 14 - v| ≤ 8192 := abs_le.mpr ⟨by omega, by omega⟩
    exact_mod_cast habs
  have hre := component (b.re * w.re - b.im * w.im)
  have him := component (b.re * w.im + b.im * w.re)
  refine (Complex.norm_le_abs_re_add_abs_im _).trans ?_
  simp only [Int.cast_sub, Int.cast_mul, Int.cast_add, complexOf, exactMul14, Complex.sub_re, Complex.mul_re,
    Complex.re_ofNat, Complex.im_ofNat, zero_mul, sub_zero, Complex.sub_im, Complex.mul_im, add_zero] at hre him ⊢
  linarith

theorem norm_exactMul14_le (b : Cx) (m : Nat) :
    16384 * ‖complexOf (exactMul14 b (tw m))‖ ≤ 16385 * ‖complexOf b‖ + 16384 := by
  have hround := norm_exactMul14_sub_le b (tw m)
  have hprod : ‖complexOf b * complexOf (tw m)‖ ≤ ‖complexOf b‖ * 16385 := by
    rw [norm_mul]
    exact mul_le_mul_of_nonneg_left (norm_tw_le m) (norm_nonneg _)
  have htri := norm_sub_norm_le (16384 * complexOf (exactMul14 b (tw m))) (complexOf b * complexOf (tw m))
  rw [norm_mul, show ‖(16384 : ℂ)‖ = 16384 by norm_num] at htri
  linarith

theorem norm_exactBfly_le {a b : Cx} {m : Nat} {r : ℝ} (ha : ‖complexOf a‖ ≤ r) (hb : ‖complexOf b‖ ≤ r)
    (hr : r ≤ 2 ^ 25) :
    ‖complexOf (exactBfly a b m).1‖ ≤ 2 * r + 2 ^ 15 ∧ ‖complexOf (exactBfly a b m).2‖ ≤ 2 * r + 2 ^ 15 := by
  have ht := norm_exactMul14_le b m
  rw [exactBfly_fst_complexOf, exactBfly_snd_complexOf]
  constructor
  · have := norm_add_le (complexOf a) (complexOf (exactMul14 b (tw m)))
    linarith
  · have := norm_sub_le (complexOf a) (complexOf (exactMul14 b (tw m)))
    linarith

/-- Every output of a stage is a butterfly's output. -/
theorem exactSubTransform_succ_cases (x : Nat → Int) (s j k : Nat) :
    ∃ k' m, exactSubTransform x (s + 1) j k =
        (exactBfly (exactSubTransform x s j k') (exactSubTransform x s (j + 256 / 2 ^ s) k') m).1 ∨
      exactSubTransform x (s + 1) j k =
        (exactBfly (exactSubTransform x s j k') (exactSubTransform x s (j + 256 / 2 ^ s) k') m).2 := by
  rw [exactSubTransform]
  split
  case isTrue => exact ⟨_, _, .inl rfl⟩
  case isFalse => exact ⟨_, _, .inr rfl⟩

/-- The bound of R285, in the form that each stage hands on to the next: `2 * (2^(s+16) - 2^15) + 2^15` is the bound of
stage `s + 1`. -/
theorem norm_exactSubTransform_le {x : Nat → Int} (hx : ∀ n, -32768 ≤ x n ∧ x n ≤ 32767) {s : Nat} (hs : s ≤ 9)
    (j k : Nat) : ‖complexOf (exactSubTransform x s j k)‖ ≤ 2 ^ (s + 16) - 2 ^ 15 := by
  induction s generalizing j k with
  | zero =>
    have habs : |x j| ≤ 32768 := abs_le.mpr ⟨(hx j).1, (hx j).2.trans (by decide)⟩
    have habs' : |(x j : ℝ)| ≤ 32768 := by exact_mod_cast habs
    refine (Complex.norm_le_abs_re_add_abs_im _).trans ?_
    simp only [complexOf, exactSubTransform, Int.cast_zero, abs_zero, add_zero, zero_add]
    linarith
  | succ s ih =>
    have hpow : (2 : ℝ) ^ (s + 16) ≤ 2 ^ 25 := pow_le_pow_right₀ (by norm_num) (by omega)
    obtain ⟨k', m, hk⟩ := exactSubTransform_succ_cases x s j k
    obtain ⟨hfst, hsnd⟩ := norm_exactBfly_le (m := m) (ih (by omega) j k') (ih (by omega) (j + 256 / 2 ^ s) k')
      (by linarith)
    have hnext : (2 : ℝ) * (2 ^ (s + 16) - 2 ^ 15) + 2 ^ 15 = 2 ^ (s + 1 + 16) - 2 ^ 15 := by ring
    rw [hnext] at hfst hsnd
    rcases hk with hk | hk
    · rwa [hk]
    · rwa [hk]

/-- The bound of R285 at every stage. -/
theorem norm_exactSubTransform_le_max {x : Nat → Int} (hx : ∀ n, -32768 ≤ x n ∧ x n ≤ 32767) {s : Nat} (hs : s ≤ 9)
    (j k : Nat) : ‖complexOf (exactSubTransform x s j k)‖ ≤ 2 ^ 25 - 2 ^ 15 := by
  have hpow : (2 : ℝ) ^ (s + 16) ≤ 2 ^ 25 := pow_le_pow_right₀ (by norm_num) (by omega)
  linarith [norm_exactSubTransform_le hx hs j k]

theorem exactSubTransform_bounded {x : Nat → Int} (hx : ∀ n, -32768 ≤ x n ∧ x n ≤ 32767) {s : Nat} (hs : s ≤ 9)
    (j k : Nat) : (exactSubTransform x s j k).re.natAbs < 2 ^ 25 ∧ (exactSubTransform x s j k).im.natAbs < 2 ^ 25 := by
  have hnorm : ‖complexOf (exactSubTransform x s j k)‖ ≤ ((2 ^ 25 - 2 ^ 15 : Nat) : ℝ) := by
    have := norm_exactSubTransform_le_max hx hs j k
    push_cast
    linarith
  obtain ⟨hre, him⟩ := natAbs_le_of_norm_complexOf_le hnorm
  omega

theorem wrap_of_natAbs_lt {v : Int} (h : v.natAbs < 2 ^ 31) : wrap 32 v = v := wrap_of_range (by omega) (by omega)

/-- The wraps of a butterfly have nothing to do on operands that a frame of 16-bit samples can reach. -/
theorem bfly_eq_exactBfly {a b : Cx} (ha : ‖complexOf a‖ ≤ 2 ^ 25) (hb : ‖complexOf b‖ ≤ 2 ^ 25) (m : Nat) :
    bfly a b m = exactBfly a b m := by
  have ht : ‖complexOf (exactMul14 b (tw m))‖ ≤ 2 ^ 26 := by linarith [norm_exactMul14_le b m]
  obtain ⟨hare, haim⟩ := natAbs_le_of_norm_complexOf_le (n := 2 ^ 25) (by exact_mod_cast ha)
  obtain ⟨htre, htim⟩ := natAbs_le_of_norm_complexOf_le (n := 2 ^ 26) (by exact_mod_cast ht)
  have hmul : cmul14 b (tw m) = exactMul14 b (tw m) := by
    change Cx.mk (wrap 32 (exactMul14 b (tw m)).re) (wrap 32 (exactMul14 b (tw m)).im) = _
    rw [wrap_of_natAbs_lt (by omega), wrap_of_natAbs_lt (by omega)]
  simp only [bfly, cadd, csub, hmul, exactBfly_eq]
  rw [wrap_of_natAbs_lt (by omega), wrap_of_natAbs_lt (by omega), wrap_of_natAbs_lt (by omega),
    wrap_of_natAbs_lt (by omega)]

/-- The transform is the exact recurrence with only its roundings (R285). -/
theorem subTransform_eq_exactSubTransform {x : Nat → Int} (hx : ∀ n, -32768 ≤ x n ∧ x n ≤ 32767) {s : Nat}
    (hs : s ≤ 9) (j k : Nat) : subTransform x s j k = exactSubTransform x s j k := by
  induction s generalizing j k with
  | zero => rfl
  | succ s ih =>
    have hnorm : ∀ j k, ‖complexOf (exactSubTransform x s j k)‖ ≤ 2 ^ 25 := fun j k =>
      (norm_exactSubTransform_le_max hx (by omega) j k).trans (by norm_num)
    have hbfly : ∀ k m, bfly (subTransform x s j k) (subTransform x s (j + 256 / 2 ^ s) k) m =
        exactBfly (exactSubTransform x s j k) (exactSubTransform x s (j + 256 / 2 ^ s) k) m := fun k m => by
      rw [ih (by omega), ih (by omega)]
      exact bfly_eq_exactBfly (hnorm j k) (hnorm _ k) m
    simp only [subTransform, exactSubTransform, hbfly]

/-! ### Constant frames and impulses (R285, R288) -/

/-- The factor `TW[0]` is 1, so it changes nothing and rounds nothing. -/
theorem exactMul14_tw_zero (b : Cx) : exactMul14 b (tw 0) = b := by
  have hround : ∀ v : Int, rnd (v * 16384) 14 = v := fun v => by
    have := rnd14_spec (v * 16384)
    omega
  have htw : tw 0 = ⟨16384, 0⟩ := romTables.1
  simp only [exactMul14, htw, mul_zero, sub_zero, zero_add, hround]

theorem exactMul14_zero (w : Cx) : exactMul14 ⟨0, 0⟩ w = ⟨0, 0⟩ := by
  simp only [exactMul14, zero_mul, sub_zero, add_zero]
  rfl

/-- The bin 0 of a constant frame doubles at every stage, without any rounding. -/
theorem exactSubTransform_const_zero (v : Int) (s j : Nat) :
    exactSubTransform (fun _ => v) s j 0 = ⟨2 ^ s * v, 0⟩ := by
  induction s generalizing j with
  | zero => simp [exactSubTransform]
  | succ s ih =>
    rw [exactSubTransform, if_pos (Nat.two_pow_pos s), Nat.zero_mul, exactBfly_eq, exactMul14_tw_zero, ih, ih]
    simp only [Cx.mk.injEq, add_zero, and_true]
    ring

/-- Away from sample 0 an impulse's sub-transforms are 0; one that holds sample 0 has its amplitude throughout. -/
theorem exactSubTransform_impulse {x : Nat → Int} (hx : ∀ n, n ≠ 0 → x n = 0) {s : Nat} (hs : s ≤ 9) (j k : Nat) :
    exactSubTransform x s j k = ⟨x j, 0⟩ := by
  induction s generalizing j k with
  | zero => rfl
  | succ s ih =>
    have hstride : 0 < 256 / 2 ^ s :=
      Nat.div_pos (Nat.pow_le_pow_right (by decide) (show s ≤ 8 by omega)) (Nat.two_pow_pos s)
    obtain ⟨k', m, hk⟩ := exactSubTransform_succ_cases x s j k
    rw [ih (by omega), ih (by omega), hx (j + 256 / 2 ^ s) (by omega), exactBfly_eq, exactMul14_zero] at hk
    simpa using hk

/-- Settles O33: every bound is that of the exact recurrence, which the wrapped one equals. -/
theorem fftNeverOverflows : Obligations.FftNeverOverflows := by
  constructor
  · intro x hx s j k hs _ _
    have heq := subTransform_eq_exactSubTransform hx hs j k
    obtain ⟨hre, him⟩ := exactSubTransform_bounded hx hs j k
    exact ⟨heq ▸ hre, heq ▸ him, heq⟩
  · rw [subTransform_eq_exactSubTransform (fun _ => by decide) (by decide), exactSubTransform_const_zero]
    rfl

theorem getD_impulse (v : Int) {n : Nat} (hn : n ≠ 0) : (v :: List.replicate 511 0).getD n 0 = 0 := by
  obtain ⟨n, rfl⟩ := Nat.exists_eq_succ_of_ne_zero hn
  rw [List.getD_cons_succ, List.getD_eq_getElem?_getD, List.getElem?_replicate]
  split <;> rfl

/-- Settles O32, from the recurrence of R281. -/
theorem fftOfImpulse : Obligations.FftOfImpulse := by
  intro v hlo hhi
  have hlen : (v :: List.replicate 511 0).length = 512 := by rw [List.length_cons, List.length_replicate]
  have hrange : ∀ n, -32768 ≤ (v :: List.replicate 511 0).getD n 0 ∧ (v :: List.replicate 511 0).getD n 0 ≤ 32767 :=
    fun n => by
      by_cases hn : n = 0
      · subst hn
        exact ⟨hlo, hhi⟩
      · rw [getD_impulse v hn]
        decide
  have hbin : ∀ k, subTransform (fun n => (v :: List.replicate 511 0).getD n 0) 9 0 k = ⟨v, 0⟩ := fun k =>
    (subTransform_eq_exactSubTransform hrange (by decide) 0 k).trans
      (exactSubTransform_impulse (fun _ => getD_impulse v) (by decide) 0 k)
  rw [fft_eq_map_subTransform hlen, List.map_congr_left fun k _ => hbin k, List.map_const', List.length_range]

end Sys2Proof.Machine

namespace Sys2Proof.Machine

/-! ## The Goertzel bank (R300-R307) -/

theorem gcoef_le {c : Nat} (hc : c ∈ gcoef) : c ≤ 28034 := by
  revert c
  decide

theorem gcoef_getD_mem {b : Nat} (hb : b < 8) : gcoef.getD b 0 ∈ gcoef := by
  rw [List.getD_eq_getElem _ _ hb]
  exact List.getElem_mem _

/-! ### The commit of the energies (R302, R303, R363) -/

theorem State.energyAt_runGoertzel (s : State) {b : Nat} (hb : b < 8) :
    s.runGoertzel.energyAt b = resonatorEnergy (s.frameSamples s.jobFidx) b := by
  simp [State.energyAt, State.bankEnergies, hb]

theorem goertzelEnergy_eq (q : Int × Int) (c : Int) :
    goertzelEnergy q c = q.1 * q.1 + q.2 * q.2 - (q.1 * q.2 * c + 8192) / 16384 := by
  rw [goertzelEnergy, rnd_fourteen]

/-- Settles O22: each lane of the bank has the coefficient that the ROM holds for it (R300). -/
theorem goertzelRunCommits : Obligations.GoertzelRunCommits := by
  intro s hjob
  refine ⟨by simp [enabled, State.busy, hjob], completeGoeRun s, by simp only [act, State.completeJob, hjob],
    rfl, fun p hp => ?_⟩
  have hlane : p.1 < 8 ∧ (gcoef.getD p.1 0 : Int) = p.2 := by
    revert p
    decide
  change s.runGoertzel.energyAt p.1 = _
  rw [s.energyAt_runGoertzel hlane.1, resonatorEnergy, hlane.2, goertzelEnergy_eq]

/-! ### The resonator runs its recurrence over the window (R301) -/

/-- After `n` samples the resonator holds the states `n + 1` and `n` of any sequence that follows R301, in which the two
states before the first sample have the numbers 0 and 1. -/
theorem foldl_resonate_take {x : List Int} {c : Int} {q : Nat → Int} (hlen : x.length = 512) (h0 : q 0 = 0)
    (h1 : q 1 = 0) (hstep : ∀ n, n < 508 → q (n + 2) = wrap 32 (x.getD n 0 + rnd (c * q (n + 1)) 14 - q n))
    {n : Nat} (hn : n ≤ 508) : (x.take n).foldl (resonate c) (0, 0) = (q (n + 1), q n) := by
  induction n with
  | zero => rw [List.take_zero, List.foldl_nil, h0, h1]
  | succ n ih =>
    have hx : x[n]'(by omega) = x.getD n 0 := (List.getD_eq_getElem _ _ _).symm
    rw [List.take_add_one, List.getElem?_eq_getElem (by omega), Option.toList_some, List.foldl_append, ih (by omega),
      List.foldl_cons, List.foldl_nil, resonate, hx, hstep n (by omega)]

theorem goertzelState_eq_of_recurrence {x : List Int} {c : Int} {q : Nat → Int} (hlen : x.length = 512)
    (h0 : q 0 = 0) (h1 : q 1 = 0)
    (hstep : ∀ n, n < 508 → q (n + 2) = wrap 32 (x.getD n 0 + rnd (c * q (n + 1)) 14 - q n)) :
    goertzelState x c = (q 509, q 508) :=
  foldl_resonate_take hlen h0 h1 hstep le_rfl

/-! ### The gain of a resonator (R304)

Without rounding and wrap a resonator is linear, so that a state is at most the greatest input times the sum of the
magnitudes of the impulse response. That sum is evaluated exactly, over the powers of 2^14 as common denominators. -/

/-- The states of a resonator without rounding and wrap that one sample 1 leaves behind; it holds 1 at place 1. -/
def impulseResponse (c : Int) : Nat → ℚ
  | 0 => 0
  | 1 => 1
  | n + 2 => c / 16384 * impulseResponse c (n + 1) - impulseResponse c n

/-- The sum of the magnitudes of the first `n` values of the impulse response. -/
def responseGain (c : Int) (n : Nat) : ℚ := ∑ k ∈ Finset.range n, |impulseResponse c (k + 1)|

theorem responseGain_mono (c : Int) : Monotone (responseGain c) := fun _ _ h =>
  Finset.sum_le_sum_of_subset_of_nonneg (Finset.range_mono h) fun _ _ _ => abs_nonneg _

/-- From two consecutive states on, inputs of magnitude at most `B` move the later states from those of the free
oscillation by at most `B` times the gain. -/
theorem abs_sub_freeOscillation_le {c : Int} {q : Nat → ℚ} {B : ℚ} {N : Nat}
    (hq : ∀ n, n < N → |q (n + 2) - (c / 16384 * q (n + 1) - q n)| ≤ B) {m n : Nat} (h : m + n ≤ N) :
    |q (m + n + 1) - (impulseResponse c (n + 1) * q (m + 1) - impulseResponse c n * q m)| ≤
      B * responseGain c n := by
  induction n generalizing m with
  | zero => simp [impulseResponse, responseGain]
  | succ n ih =>
    have hlater := ih (m := m + 1) (by omega)
    have hinput := mul_le_mul_of_nonneg_left (hq m (by omega)) (abs_nonneg (impulseResponse c (n + 1)))
    rw [← abs_mul] at hinput
    rw [show m + (n + 1) + 1 = m + 1 + n + 1 by omega]
    calc _ = |(q (m + 1 + n + 1) -
            (impulseResponse c (n + 1) * q (m + 1 + 1) - impulseResponse c n * q (m + 1))) +
          impulseResponse c (n + 1) * (q (m + 2) - (c / 16384 * q (m + 1) - q m))| := by
          rw [impulseResponse]
          ring_nf
      _ ≤ B * responseGain c n + |impulseResponse c (n + 1)| * B := (abs_add_le _ _).trans (add_le_add hlater hinput)
      _ = B * responseGain c (n + 1) := by
          rw [responseGain, responseGain, Finset.sum_range_succ]
          ring

/-- `impulseResponse c n`, `impulseResponse c (n + 1)` and `responseGain c n`, each times `16384 ^ n`. -/
def scaledResponse (c : Int) : Nat → Int × Int × Nat
  | 0 => (0, 1, 0)
  | n + 1 =>
    match scaledResponse c n with
    | (h, h', g) => (16384 * h', c * h' - 16384 * h, 16384 * g + 16384 * h'.natAbs)

theorem scaledResponse_eq (c : Int) (n : Nat) :
    ((scaledResponse c n).1 : ℚ) = 16384 ^ n * impulseResponse c n ∧
      ((scaledResponse c n).2.1 : ℚ) = 16384 ^ n * impulseResponse c (n + 1) ∧
      ((scaledResponse c n).2.2 : ℚ) = 16384 ^ n * responseGain c n := by
  induction n with
  | zero => simp [scaledResponse, impulseResponse, responseGain]
  | succ n ih =>
    obtain ⟨hfst, hsnd, hgain⟩ := ih
    refine ⟨?_, ?_, ?_⟩
    · simp only [scaledResponse, Int.cast_mul, hsnd]
      push_cast
      ring
    · simp only [scaledResponse, Int.cast_sub, Int.cast_mul, hfst, hsnd, impulseResponse]
      push_cast
      ring
    · simp only [scaledResponse, Nat.cast_add, Nat.cast_mul, Nat.cast_natAbs, Int.cast_abs, hsnd, hgain, abs_mul,
        responseGain, Finset.sum_range_succ]
      rw [abs_of_pos (by positivity : (0 : ℚ) < 16384 ^ n)]
      push_cast
      ring

theorem responseGain_le_of_scaled {c : Int} {K n : Nat} (h : (scaledResponse c n).2.2 ≤ K * 16384 ^ n) :
    responseGain c n ≤ K := by
  have hscaled : ((scaledResponse c n).2.2 : ℚ) ≤ K * 16384 ^ n := by exact_mod_cast h
  rw [(scaledResponse_eq c n).2.2, mul_comm] at hscaled
  exact le_of_mul_le_mul_right hscaled (by positivity)

theorem scaledResponse_gain_le {c : Nat} (hc : c ∈ gcoef) : (scaledResponse c 508).2.2 ≤ 625 * 16384 ^ 508 := by
  fin_cases hc <;> decide +kernel

/-- The gain over the window, which R304 puts at 624.6 for the greatest coefficient. -/
theorem responseGain_le {c : Nat} (hc : c ∈ gcoef) : responseGain c 508 ≤ 625 := by
  exact_mod_cast responseGain_le_of_scaled (scaledResponse_gain_le hc)

/-! ### For 16-bit samples no wrap changes a state (R304) -/

/-- The states of the recurrence of R301 without its wrap: `q 509` is the state after the window's last sample. -/
structure ExactStates (x : List Int) (c : Int) (q : Nat → Int) : Prop where
  zero : q 0 = 0
  one : q 1 = 0
  step : ∀ n, n < 508 → q (n + 2) = x.getD n 0 + rnd (c * q (n + 1)) 14 - q n

/-- The one such sequence up to place 509, continued with samples 0 where the frame has none. -/
def exactStates (x : List Int) (c : Int) : Nat → Int
  | 0 => 0
  | 1 => 0
  | n + 2 => x.getD n 0 + rnd (c * exactStates x c (n + 1)) 14 - exactStates x c n

theorem exactStates_spec (x : List Int) (c : Int) : ExactStates x c (exactStates x c) :=
  ⟨rfl, rfl, fun _ _ => rfl⟩

theorem getD_sample_range {x : List Int} (hx : ∀ v ∈ x, -32768 ≤ v ∧ v ≤ 32767) (n : Nat) :
    -32768 ≤ x.getD n 0 ∧ x.getD n 0 ≤ 32767 := by
  by_cases hn : n < x.length
  · rw [List.getD_eq_getElem _ _ hn]
    exact hx _ (List.getElem_mem _)
  · rw [List.getD_eq_default _ _ (by omega)]
    decide

/-- The input of a step is the sample and the rounding of the product, which adds at most 1/2. -/
theorem ExactStates.abs_input_le {x : List Int} {c : Int} {q : Nat → Int} (h : ExactStates x c q)
    (hx : ∀ v ∈ x, -32768 ≤ v ∧ v ≤ 32767) {n : Nat} (hn : n < 508) :
    |(q (n + 2) : ℚ) - (c / 16384 * q (n + 1) - q n)| ≤ 32768 + 1 / 2 := by
  have hinput : |16384 * q (n + 2) - (c * q (n + 1) - 16384 * q n)| ≤ 16384 * 32768 + 8192 := by
    have hround := rnd14_spec (c * q (n + 1))
    have hsample := getD_sample_range hx n
    rw [h.step n hn, abs_le]
    omega
  have hcast : (|16384 * q (n + 2) - (c * q (n + 1) - 16384 * q n)| : ℚ) ≤ 16384 * 32768 + 8192 := by
    exact_mod_cast hinput
  rw [abs_le] at hcast ⊢
  constructor <;> linarith

theorem ExactStates.natAbs_le {x : List Int} {c : Nat} {q : Nat → Int} (h : ExactStates x c q)
    (hx : ∀ v ∈ x, -32768 ≤ v ∧ v ≤ 32767) (hc : c ∈ gcoef) {n : Nat} (hn : n ≤ 509) :
    (q n).natAbs ≤ 626 * 2 ^ 15 := by
  cases n with
  | zero => rw [h.zero]; decide
  | succ n =>
    have hfree := abs_sub_freeOscillation_le (q := fun n => (q n : ℚ)) (fun _ => h.abs_input_le hx) (m := 0)
      (n := n) (by omega)
    have hgain := (responseGain_mono c (by omega : n ≤ 508)).trans (responseGain_le hc)
    simp only [zero_add, h.zero, h.one, Int.cast_zero, mul_zero, sub_zero] at hfree
    have hbound : (|q (n + 1)| : ℚ) ≤ (626 * 2 ^ 15 : Nat) := by
      push_cast
      linarith
    rw [← Nat.cast_le (α := ℚ), Nat.cast_natAbs, Int.cast_abs]
    exact hbound

/-- The wraps of R301 have nothing to do on 16-bit samples. -/
theorem ExactStates.goertzelState_eq {x : List Int} {c : Nat} {q : Nat → Int} (h : ExactStates x c q)
    (hlen : x.length = 512) (hx : ∀ v ∈ x, -32768 ≤ v ∧ v ≤ 32767) (hc : c ∈ gcoef) :
    goertzelState x c = (q 509, q 508) := by
  refine goertzelState_eq_of_recurrence hlen h.zero h.one fun n hn => ?_
  have hbound := h.natAbs_le hx hc (by omega : n + 2 ≤ 509)
  rw [← h.step n hn, wrap_of_natAbs_lt (by omega)]

/-- Settles O34: a fold over the window, then the bound by the gain of the resonator. -/
theorem resonatorRecurrence : Obligations.ResonatorRecurrence := by
  constructor
  · intro x c q hlen h0 h1 hstep
    exact goertzelState_eq_of_recurrence hlen h0 h1 fun n hn => by rw [hstep n hn, rnd_fourteen]
  · intro x c q hlen hx hc h0 h1 hstep
    have h : ExactStates x c q := ⟨h0, h1, fun n hn => by rw [hstep n hn, rnd_fourteen]⟩
    exact ⟨h.goertzelState_eq hlen hx hc, fun _ => h.natAbs_le hx hc⟩

/-! ### The energy (R302, R303, R307) -/

/-- R302's argument: the quadratic form is positive, and the rounding adds at most 1/2. -/
theorem goertzelEnergy_nonneg (q : Int × Int) {c : Int} (h0 : 0 ≤ c) (hc : c ≤ 32768) : 0 ≤ goertzelEnergy q c := by
  have hround := (rnd14_spec (q.1 * q.2 * c)).1
  have hform : 0 ≤ c * (q.1 - q.2) ^ 2 + (32768 - c) * (q.1 ^ 2 + q.2 ^ 2) :=
    add_nonneg (mul_nonneg h0 (sq_nonneg _)) (mul_nonneg (by omega) (by positivity))
  have hhalf : -16384 ≤ 32768 * goertzelEnergy q c := by
    rw [goertzelEnergy]
    linarith
  omega

/-- The form is at most 1 + c / 2^15 times the sum of the squares, and the rounding takes at most 1/2 away. -/
theorem goertzelEnergy_lt {q : Int × Int} {c M : Int} (h0 : 0 ≤ c) (h1 : |q.1| ≤ M) (h2 : |q.2| ≤ M) :
    32768 * goertzelEnergy q c < (32768 + c) * (2 * M ^ 2) + 16384 := by
  have hround := (rnd14_spec (q.1 * q.2 * c)).2
  have hsum : q.1 ^ 2 + q.2 ^ 2 ≤ 2 * M ^ 2 := by
    linarith [sq_le_sq' (abs_le.mp h1).1 (abs_le.mp h1).2, sq_le_sq' (abs_le.mp h2).1 (abs_le.mp h2).2]
  have hscaled := mul_le_mul_of_nonneg_left hsum (by omega : 0 ≤ 32768 + c)
  have hform : 0 ≤ c * (q.1 + q.2) ^ 2 := mul_nonneg h0 (sq_nonneg _)
  rw [goertzelEnergy]
  linarith

theorem goertzelEnergy_lt_of_word {q : Int × Int} {c : Nat} (hc : c ∈ gcoef) (h1 : -2 ^ 31 ≤ q.1 ∧ q.1 < 2 ^ 31)
    (h2 : -2 ^ 31 ≤ q.2 ∧ q.2 < 2 ^ 31) : goertzelEnergy q c < 2 ^ 64 := by
  have hle := gcoef_le hc
  have hlt := goertzelEnergy_lt (M := 2 ^ 31) (Int.natCast_nonneg c) (abs_le.mpr ⟨h1.1, h1.2.le⟩)
    (abs_le.mpr ⟨h2.1, h2.2.le⟩)
  omega

/-- One state is the last wrap and the other the wrap before it, so both stay 32-bit values. -/
theorem foldl_resonate_range (c : Int) (x : List Int) {q : Int × Int} (h1 : -2 ^ 31 ≤ q.1 ∧ q.1 < 2 ^ 31)
    (h2 : -2 ^ 31 ≤ q.2 ∧ q.2 < 2 ^ 31) :
    (-2 ^ 31 ≤ (x.foldl (resonate c) q).1 ∧ (x.foldl (resonate c) q).1 < 2 ^ 31) ∧
      (-2 ^ 31 ≤ (x.foldl (resonate c) q).2 ∧ (x.foldl (resonate c) q).2 < 2 ^ 31) := by
  induction x generalizing q with
  | nil => exact ⟨h1, h2⟩
  | cons v x ih => exact ih (wrap_range _) h1

/-- The pattern of R303's store is the energy itself, whatever the samples. -/
theorem resonatorEnergy_toNat (x : List Int) {b : Nat} (hb : b < 8) :
    ((resonatorEnergy x b).toNat : Int) = goertzelEnergy (goertzelState x (gcoef.getD b 0)) (gcoef.getD b 0) := by
  have hc := gcoef_getD_mem hb
  have hle := gcoef_le hc
  obtain ⟨h1, h2⟩ := foldl_resonate_range (gcoef.getD b 0) (x.take Config.goertzelWindow) (q := (0, 0)) (by decide)
    (by decide)
  have hlt := goertzelEnergy_lt_of_word hc h1 h2
  have hnonneg := goertzelEnergy_nonneg (goertzelState x (gcoef.getD b 0)) (Int.natCast_nonneg (gcoef.getD b 0))
    (by omega)
  rw [resonatorEnergy, BitVec.toNat_ofInt, Int.toNat_of_nonneg (Int.emod_nonneg _ (by decide))]
  exact Int.emod_eq_of_lt hnonneg hlt

theorem ExactStates.goertzelEnergy_le {x : List Int} {c : Nat} {q : Nat → Int} (h : ExactStates x c q)
    (hx : ∀ v ∈ x, -32768 ≤ v ∧ v ≤ 32767) (hc : c ∈ gcoef) : goertzelEnergy (q 509, q 508) c ≤ 2 ^ 53 := by
  have hle := gcoef_le hc
  have habs : ∀ n, n ≤ 509 → |q n| ≤ 626 * 2 ^ 15 := fun n hn => by
    have := h.natAbs_le hx hc hn
    rw [Int.abs_eq_natAbs]
    omega
  have hlt := goertzelEnergy_lt (q := (q 509, q 508)) (Int.natCast_nonneg c) (habs 509 le_rfl) (habs 508 (by decide))
  omega

theorem resonatorEnergy_le {x : List Int} {b : Nat} (hlen : x.length = 512)
    (hx : ∀ v ∈ x, -32768 ≤ v ∧ v ≤ 32767) (hb : b < 8) : (resonatorEnergy x b).toNat ≤ 2 ^ 53 := by
  have hexact := exactStates_spec x (gcoef.getD b 0)
  have hle := hexact.goertzelEnergy_le hx (gcoef_getD_mem hb)
  rw [← hexact.goertzelState_eq hlen hx (gcoef_getD_mem hb), ← resonatorEnergy_toNat x hb] at hle
  exact_mod_cast hle

theorem resonatorEnergy_congr {x y : List Int} (h : x.take 508 = y.take 508) (b : Nat) :
    resonatorEnergy x b = resonatorEnergy y b := by
  simp only [resonatorEnergy, goertzelState, Config.goertzelWindow, h]

/-- Zeros leave a resonator at rest. -/
theorem foldl_resonate_zeros (c : Int) (n : Nat) : (List.replicate n 0).foldl (resonate c) (0, 0) = (0, 0) := by
  induction n with
  | zero => rfl
  | succ n ih =>
    have hrest : resonate c (0, 0) 0 = (0, 0) := by rw [resonate, mul_zero]; rfl
    rw [List.replicate_succ, List.foldl_cons, hrest, ih]

theorem resonatorEnergy_zeros (b : Nat) : resonatorEnergy (List.replicate 512 0) b = 0#64 := by
  rw [resonatorEnergy, goertzelState, List.take_replicate, foldl_resonate_zeros, goertzelEnergy_eq]
  simp

/-- Settles O35: the bounds of the quadratic form, on the states that wrapping (R301) and the gain (R304) allow. -/
theorem energiesOfTheWindow : Obligations.EnergiesOfTheWindow := by
  refine ⟨fun q c hc => ?_, fun x _ => resonatorEnergy_toNat x, fun _ _ => resonatorEnergy_le,
    fun _ _ b _ _ h => resonatorEnergy_congr h b, resonatorEnergy_zeros⟩
  have hle := gcoef_le hc
  exact ⟨goertzelEnergy_nonneg q (Int.natCast_nonneg c) (by omega), fun hlo1 hhi1 hlo2 hhi2 =>
    goertzelEnergy_lt_of_word hc ⟨hlo1, hhi1⟩ ⟨hlo2, hhi2⟩⟩

end Sys2Proof.Machine

namespace Sys2Proof.Machine

/-! ## The detectors (R320-R330) -/

/-- Settles O36: the table by evaluation; 30 Hz either side of a frequency lies between the bins, which stand 125/8 Hz
apart. -/
theorem matchingBins : Obligations.MatchingBins := by
  refine ⟨by decide +kernel, fun f hf i _ => ?_⟩
  have hbetween : ∀ f ∈ Config.freqs, (8 * f + 240) % 125 ≠ 0 ∧ (8 * f - 240) % 125 ≠ 0 := by decide
  obtain ⟨habove, hbelow⟩ := hbetween f hf
  omega

/-! ### The scan of `FDET`, bin by bin (R320, R323)

The scan's state after the bins below `n` obeys one equation for each kind of bin that comes next. -/

/-- A candidate of the group: a bin above the threshold that matches the frequency `f` (R323). -/
def IsCandidate (t : Nat) (spec : Nat → Cx) (g : List Nat) (i f : Nat) : Prop :=
  matchFreq g i = some f ∧ t * t < mag2 (spec i)

/-- The scan's variables once the bins below `n` are examined. -/
def scanBelow (ref : FdetRef) (t : Nat) (spec : Nat → Cx) (g : List Nat) (n : Nat) : Scan :=
  (List.range n).foldl (fun c i => scanBin ref t g (mag2 (spec i)) i c) { res := 0, bm := 0, bi := 0 }

theorem fdetGroup_eq_scanBelow (ref : FdetRef) (t : Nat) (spec : Nat → Cx) (g : List Nat) :
    fdetGroup ref t spec g = (scanBelow ref t spec g 257).res := rfl

section
variable {ref : FdetRef} {t : Nat} {spec : Nat → Cx} {g : List Nat} {n f : Nat}

theorem IsCandidate.eq {f' : Nat} (h : IsCandidate t spec g n f) (h' : IsCandidate t spec g n f') : f = f' :=
  Option.some.inj (h.1.symm.trans h'.1)

theorem scanBelow_zero : scanBelow ref t spec g 0 = { res := 0, bm := 0, bi := 0 } := rfl

theorem scanBelow_succ :
    scanBelow ref t spec g (n + 1) = scanBin ref t g (mag2 (spec n)) n (scanBelow ref t spec g n) := by
  simp only [scanBelow, List.range_succ, List.foldl_append, List.foldl_cons, List.foldl_nil]

theorem scanBelow_succ_of_not_candidate (h : ∀ f, ¬ IsCandidate t spec g n f) :
    scanBelow ref t spec g (n + 1) = scanBelow ref t spec g n := by
  rw [scanBelow_succ, scanBin]
  split
  · rfl
  · split
    · rfl
    · next f hf => exact if_pos (Nat.le_of_not_lt fun hm => h f ⟨hf, hm⟩)

/-- Ambiguity is final (R323, D10). -/
theorem scanBelow_succ_of_ambiguous (h : (scanBelow ref t spec g n).res = -1) :
    scanBelow ref t spec g (n + 1) = scanBelow ref t spec g n := by
  rw [scanBelow_succ, scanBin, if_pos h]

theorem scanBelow_succ_of_silent (hn : IsCandidate t spec g n f) (h : (scanBelow ref t spec g n).res = 0) :
    scanBelow ref t spec g (n + 1) = { res := f, bm := mag2 (spec n), bi := n } := by
  rw [scanBelow_succ, scanBin, if_neg (by simp [h]), hn.1]
  exact (if_neg (Nat.not_le_of_lt hn.2)).trans (if_pos h)

/-- A tie keeps the earlier bin (R323, D7). -/
theorem scanBelow_succ_of_held {c : Scan} (hn : IsCandidate t spec g n f) (hc : scanBelow ref t spec g n = c)
    (h0 : c.res ≠ 0) (h1 : c.res ≠ -1) :
    scanBelow ref t spec g (n + 1) =
      if nearBest ref c n then if c.bm < mag2 (spec n) then { c with bm := mag2 (spec n), bi := n } else c
      else { c with res := -1 } := by
  rw [scanBelow_succ, hc, scanBin, if_neg h1, hn.1]
  exact (if_neg (Nat.not_le_of_lt hn.2)).trans (if_neg h0)

theorem scanBelow_of_no_candidate {m : Nat} (hmn : m ≤ n) (h : ∀ i f, m ≤ i → i < n → ¬ IsCandidate t spec g i f) :
    scanBelow ref t spec g n = scanBelow ref t spec g m := by
  induction n, hmn using Nat.le_induction with
  | base => rfl
  | succ n hmn ih =>
    rw [scanBelow_succ_of_not_candidate fun f => h n f hmn n.lt_succ_self,
      ih fun i f hi hin => h i f hi (Nat.lt_succ_of_lt hin)]

theorem scanBelow_of_ambiguous {m : Nat} (hmn : m ≤ n) (h : (scanBelow ref t spec g m).res = -1) :
    (scanBelow ref t spec g n).res = -1 := by
  induction n, hmn using Nat.le_induction with
  | base => exact h
  | succ n _ ih => rw [scanBelow_succ_of_ambiguous ih, ih]

theorem fdetGroup_of_no_candidate (h : ∀ i f, i ≤ 256 → ¬ IsCandidate t spec g i f) : fdetGroup ref t spec g = 0 := by
  rw [fdetGroup_eq_scanBelow,
    scanBelow_of_no_candidate (Nat.zero_le _) fun i f _ hi => h i f (Nat.le_of_lt_succ hi), scanBelow_zero]

end

/-! ### `CANONICAL` mode: the verdict on the frequencies found (R325) -/

/-- What a group's result says of the frequencies that its candidates match. -/
inductive Verdict (found : Nat → Prop) : Int → Prop where
  | silence (hnone : ∀ f, ¬ found f) : Verdict found 0
  | tone (F : Nat) (hF : found F) (hall : ∀ f, found f → f = F) : Verdict found F
  | ambiguous (f f' : Nat) (hf : found f) (hf' : found f') (hne : f ≠ f') : Verdict found (-1)

/-- The frequencies that the candidates below `n` match. -/
def FoundBelow (t : Nat) (spec : Nat → Cx) (g : List Nat) (n f : Nat) : Prop := ∃ i < n, IsCandidate t spec g i f

/-- A group that R324's windows keep apart: a bin within 30 Hz of two of its frequencies would bring them within 60 Hz
of each other. -/
structure Separated (g : List Nat) : Prop where
  pos : ∀ f ∈ g, f ≠ 0
  apart : ∀ f ∈ g, ∀ f' ∈ g, ((f : Int) - f').natAbs ≤ 60 → f = f'

theorem separated_of_group {g : List Nat} (hg : g = Config.lowFreqs ∨ g = Config.highFreqs) : Separated g := by
  rcases hg with rfl | rfl
  · exact ⟨by decide, by decide⟩
  · exact ⟨by decide, by decide⟩

section
variable {t : Nat} {spec : Nat → Cx} {g : List Nat} {n f : Nat}

theorem IsCandidate.mem (h : IsCandidate t spec g n f) : f ∈ g := List.mem_of_find?_eq_some h.1

theorem IsCandidate.withinTolerance (h : IsCandidate t spec g n f) : withinTolerance n f = true :=
  List.find?_some h.1

theorem foundBelow_succ : FoundBelow t spec g (n + 1) f ↔ FoundBelow t spec g n f ∨ IsCandidate t spec g n f :=
  Nat.exists_lt_succ_right

/-- In `CANONICAL` mode a candidate is near the held best exactly if it matches the same frequency (R323). -/
theorem IsCandidate.nearBest_canonical (hg : Separated g) (hn : IsCandidate t spec g n f) {F : Nat} (hF : F ∈ g)
    {c : Scan} (hc : c.res = F) : nearBest .canonical c n = true ↔ f = F := by
  have hf := hn.withinTolerance
  simp only [Machine.withinTolerance, decide_eq_true_eq] at hf
  simp only [nearBest, hc, decide_eq_true_eq]
  constructor
  · intro hnear
    exact hg.apart f hn.mem F hF (by omega)
  · rintro rfl
    exact_mod_cast hf

theorem verdict_scanBelow (hg : Separated g) (t : Nat) (spec : Nat → Cx) (n : Nat) :
    Verdict (FoundBelow t spec g n) (scanBelow .canonical t spec g n).res := by
  induction n with
  | zero => exact .silence fun f ⟨_, hi, _⟩ => absurd hi (Nat.not_lt_zero _)
  | succ n ih =>
    by_cases hcand : ∃ f, IsCandidate t spec g n f
    case neg =>
      have hnone : ∀ f, ¬ IsCandidate t spec g n f := not_exists.mp hcand
      have hfound : FoundBelow t spec g (n + 1) = FoundBelow t spec g n :=
        funext fun f => propext (foundBelow_succ.trans (or_iff_left (hnone f)))
      rwa [scanBelow_succ_of_not_candidate hnone, hfound]
    case pos =>
      obtain ⟨f, hn⟩ := hcand
      have hnew : FoundBelow t spec g (n + 1) f := foundBelow_succ.mpr (.inr hn)
      generalize hres : (scanBelow .canonical t spec g n).res = r at ih
      cases ih with
      | silence hnone =>
        rw [scanBelow_succ_of_silent hn hres]
        exact .tone f hnew fun f' hf' => (foundBelow_succ.mp hf').elim (absurd · (hnone f')) fun h => h.eq hn
      | tone F hF hall =>
        have hFg : F ∈ g := let ⟨_, _, hi⟩ := hF; hi.mem
        have hF0 := hg.pos F hFg
        rw [scanBelow_succ_of_held hn rfl (by omega) (by omega)]
        by_cases hfF : f = F
        · rw [if_pos ((hn.nearBest_canonical hg hFg hres).mpr hfF), apply_ite Scan.res, hres, ite_self]
          exact .tone F (hfF ▸ hnew) fun f' hf' => (foundBelow_succ.mp hf').elim (hall f') fun h => (h.eq hn).trans hfF
        · rw [if_neg (mt (hn.nearBest_canonical hg hFg hres).mp hfF)]
          exact .ambiguous f F hnew (foundBelow_succ.mpr (.inl hF)) hfF
      | ambiguous f₁ f₂ h₁ h₂ hne =>
        rw [scanBelow_succ_of_ambiguous hres, hres]
        exact .ambiguous f₁ f₂ (foundBelow_succ.mpr (.inl h₁)) (foundBelow_succ.mpr (.inl h₂)) hne

theorem foundBelow_all : FoundBelow t spec g 257 f ↔ ∃ i, i ≤ 256 ∧ IsCandidate t spec g i f := by
  simp only [FoundBelow, Nat.lt_succ_iff]

theorem verdict_fdetGroup (hg : Separated g) (t : Nat) (spec : Nat → Cx) :
    Verdict (FoundBelow t spec g 257) (fdetGroup .canonical t spec g) :=
  verdict_scanBelow hg t spec 257

end

namespace Verdict
variable {found : Nat → Prop} {r : Int}

theorem eq_zero (h : Verdict found r) (hnone : ∀ f, ¬ found f) : r = 0 := by
  cases h with
  | silence => rfl
  | tone F hF => exact absurd hF (hnone F)
  | ambiguous f _ hf => exact absurd hf (hnone f)

theorem eq_tone (h : Verdict found r) {F : Nat} (hF : found F) (hall : ∀ f, found f → f = F) : r = F := by
  cases h with
  | silence hnone => exact absurd hF (hnone F)
  | tone F' hF' => rw [hall F' hF']
  | ambiguous f f' hf hf' hne => exact absurd ((hall f hf).trans (hall f' hf').symm) hne

theorem eq_ambiguous (h : Verdict found r) {f f' : Nat} (hf : found f) (hf' : found f') (hne : f ≠ f') : r = -1 := by
  cases h with
  | silence hnone => exact absurd hf (hnone f)
  | tone F _ hall => exact absurd ((hall f hf).trans (hall f' hf').symm) hne
  | ambiguous => rfl

end Verdict

/-! ### `BIN` mode: the held best moves from bin to bin (R323) -/

section
variable {t : Nat} {spec : Nat → Cx} {g : List Nat} {n m F b : Nat}

theorem nearBest_bin {c : Scan} : nearBest .bin c n = true ↔ ((n : Int) - c.bi).natAbs ≤ 1 := by
  simp only [nearBest, decide_eq_true_eq]

/-- The next bin is near, so the group keeps its frequency whichever of the two is greater. -/
theorem scanBelow_bin_next (hF : F ≠ 0) (hc : scanBelow .bin t spec g (b + 1) = { res := F, bm := m, bi := b })
    (hn : IsCandidate t spec g (b + 1) F) :
    scanBelow .bin t spec g (b + 2) =
      if m < mag2 (spec (b + 1)) then { res := F, bm := mag2 (spec (b + 1)), bi := b + 1 }
      else { res := F, bm := m, bi := b } := by
  rw [scanBelow_succ_of_held hn hc (by simpa using hF) (by simp only; omega),
    if_pos (nearBest_bin.mpr (by simp only; omega))]

/-- A candidate that is not next to the held best makes the group ambiguous. -/
theorem scanBelow_bin_far (hn : IsCandidate t spec g n F) (h0 : (scanBelow .bin t spec g n).res ≠ 0)
    (hfar : (scanBelow .bin t spec g n).bi + 1 < n) : (scanBelow .bin t spec g (n + 1)).res = -1 := by
  by_cases hamb : (scanBelow .bin t spec g n).res = -1
  · rwa [scanBelow_succ_of_ambiguous hamb]
  · rw [scanBelow_succ_of_held hn rfl h0 hamb, if_neg (by rw [nearBest_bin]; omega)]

theorem scanBin_bi_eq_or (ref : FdetRef) (t : Nat) (g : List Nat) (m i : Nat) (c : Scan) :
    (scanBin ref t g m i c).bi = c.bi ∨ (scanBin ref t g m i c).bi = i := by
  rw [scanBin]
  cases matchFreq g i with
  | none => exact .inl (by simp only [ite_self])
  | some f => split_ifs <;> simp

/-- The held best is one of the bins already examined. -/
theorem scanBelow_succ_bi_le (ref : FdetRef) (t : Nat) (spec : Nat → Cx) (g : List Nat) (n : Nat) :
    (scanBelow ref t spec g (n + 1)).bi ≤ n := by
  induction n with
  | zero =>
    rw [scanBelow_succ, scanBelow_zero]
    exact ((scanBin_bi_eq_or ..).elim id id).le
  | succ n ih =>
    rw [scanBelow_succ]
    rcases scanBin_bi_eq_or ref t g (mag2 (spec (n + 1))) (n + 1) (scanBelow ref t spec g (n + 1)) with h | h <;> omega

theorem scanBelow_succ_res_ne_zero {ref : FdetRef} (hg : Separated g) (hn : IsCandidate t spec g n F) :
    (scanBelow ref t spec g (n + 1)).res ≠ 0 := by
  have hF := hg.pos F hn.mem
  by_cases h0 : (scanBelow ref t spec g n).res = 0
  · simpa [scanBelow_succ_of_silent hn h0] using hF
  · by_cases h1 : (scanBelow ref t spec g n).res = -1
    · rwa [scanBelow_succ_of_ambiguous h1]
    · rw [scanBelow_succ_of_held hn rfl h0 h1]
      split_ifs <;> simp [h0]

/-- R325's example: two candidates with one bin between them that is none. -/
theorem fdetGroup_bin_of_gap {f : Nat} (hg : Separated g) (hb : b ≤ 254) (h0 : IsCandidate t spec g b F)
    (h1 : ∀ f, ¬ IsCandidate t spec g (b + 1) f) (h2 : IsCandidate t spec g (b + 2) f) :
    fdetGroup .bin t spec g = -1 := by
  have hgap : scanBelow .bin t spec g (b + 2) = scanBelow .bin t spec g (b + 1) := scanBelow_succ_of_not_candidate h1
  have hbi := scanBelow_succ_bi_le .bin t spec g b
  have hamb : (scanBelow .bin t spec g (b + 3)).res = -1 :=
    scanBelow_bin_far h2 (hgap ▸ scanBelow_succ_res_ne_zero hg h0) (by rw [hgap]; omega)
  exact scanBelow_of_ambiguous (by omega) hamb

/-! ### `BIN` mode with all candidates at the bins of one frequency (R323, R324) -/

/-- The four bins `b .. b + 3` match `F` (R324), and every other candidate of the group is left out. -/
structure OnlyTone (t : Nat) (spec : Nat → Cx) (g : List Nat) (F b : Nat) : Prop where
  pos : F ≠ 0
  range : b + 3 ≤ 256
  matching : ∀ j < 4, matchFreq g (b + j) = some F
  elsewhere : ∀ i f, i ≤ 256 → i < b ∨ b + 3 < i → ¬ IsCandidate t spec g i f

namespace OnlyTone

theorem isCandidate (h : OnlyTone t spec g F b) {j : Nat} (hj : j < 4) (hm : t * t < mag2 (spec (b + j))) :
    IsCandidate t spec g (b + j) F := ⟨h.matching j hj, hm⟩

/-- The first bin becomes the held best. -/
theorem scanBelow_first (h : OnlyTone t spec g F b) (hm : t * t < mag2 (spec b)) :
    scanBelow .bin t spec g (b + 1) = { res := F, bm := mag2 (spec b), bi := b } := by
  have hrange := h.range
  have hbefore : scanBelow .bin t spec g b = { res := 0, bm := 0, bi := 0 } :=
    scanBelow_of_no_candidate (Nat.zero_le b) fun i f _ hi => h.elsewhere i f (by omega) (.inl hi)
  exact scanBelow_succ_of_silent (h.isCandidate (j := 0) (by decide) hm) (by rw [hbefore])

theorem scanBelow_second (h : OnlyTone t spec g F b) (h0 : t * t < mag2 (spec b)) (h1 : t * t < mag2 (spec (b + 1))) :
    scanBelow .bin t spec g (b + 2) =
      if mag2 (spec b) < mag2 (spec (b + 1)) then { res := F, bm := mag2 (spec (b + 1)), bi := b + 1 }
      else { res := F, bm := mag2 (spec b), bi := b } :=
  scanBelow_bin_next h.pos (h.scanBelow_first h0) (h.isCandidate (j := 1) (by decide) h1)

/-- The scan's result stands once the remaining bins of the tone are below the threshold. -/
theorem fdetGroup_eq (h : OnlyTone t spec g F b) {k : Nat} (hk : k ≤ 4)
    (hrest : ∀ j, k ≤ j → j < 4 → mag2 (spec (b + j)) ≤ t * t) :
    fdetGroup .bin t spec g = (scanBelow .bin t spec g (b + k)).res := by
  have hrange := h.range
  rw [fdetGroup_eq_scanBelow, scanBelow_of_no_candidate (m := b + k) (by omega)]
  intro i f hki hi hcand
  by_cases hin : i ≤ b + 3
  · obtain ⟨j, rfl⟩ := Nat.exists_eq_add_of_le (by omega : b ≤ i)
    exact absurd hcand.2 (Nat.not_lt_of_le (hrest j (by omega) (by omega)))
  · exact h.elsewhere i f (by omega) (.inr (by omega)) hcand

theorem fdetGroup_two (h : OnlyTone t spec g F b) (h0 : t * t < mag2 (spec b)) (h1 : t * t < mag2 (spec (b + 1)))
    (h2 : mag2 (spec (b + 2)) ≤ t * t) (h3 : mag2 (spec (b + 3)) ≤ t * t) : fdetGroup .bin t spec g = F := by
  have hrest : ∀ j, 2 ≤ j → j < 4 → mag2 (spec (b + j)) ≤ t * t := fun j hj hj' => by
    obtain rfl | rfl : j = 2 ∨ j = 3 := by omega
    exacts [h2, h3]
  rw [h.fdetGroup_eq (by decide) hrest, h.scanBelow_second h0 h1, apply_ite Scan.res, ite_self]

/-- If the second bin is the held best, the third is next to it. -/
theorem scanBelow_third (h : OnlyTone t spec g F b) (h0 : t * t < mag2 (spec b)) (h1 : t * t < mag2 (spec (b + 1)))
    (h2 : t * t < mag2 (spec (b + 2))) (hrise : mag2 (spec b) < mag2 (spec (b + 1))) :
    scanBelow .bin t spec g (b + 3) =
      if mag2 (spec (b + 1)) < mag2 (spec (b + 2)) then { res := F, bm := mag2 (spec (b + 2)), bi := b + 2 }
      else { res := F, bm := mag2 (spec (b + 1)), bi := b + 1 } :=
  scanBelow_bin_next h.pos ((h.scanBelow_second h0 h1).trans (if_pos hrise)) (h.isCandidate (j := 2) (by decide) h2)

/-- If the first bin is still the held best, the third is too far from it. -/
theorem scanBelow_third_res (h : OnlyTone t spec g F b) (h0 : t * t < mag2 (spec b)) (h1 : t * t < mag2 (spec (b + 1)))
    (h2 : t * t < mag2 (spec (b + 2))) (hrise : ¬ mag2 (spec b) < mag2 (spec (b + 1))) :
    (scanBelow .bin t spec g (b + 3)).res = -1 := by
  have hheld := (h.scanBelow_second h0 h1).trans (if_neg hrise)
  exact scanBelow_bin_far (h.isCandidate (j := 2) (by decide) h2) (by simpa [hheld] using h.pos) (by simp [hheld])

theorem fdetGroup_three (h : OnlyTone t spec g F b) (h0 : t * t < mag2 (spec b)) (h1 : t * t < mag2 (spec (b + 1)))
    (h2 : t * t < mag2 (spec (b + 2))) (h3 : mag2 (spec (b + 3)) ≤ t * t) :
    fdetGroup .bin t spec g = if mag2 (spec b) < mag2 (spec (b + 1)) then (F : Int) else -1 := by
  have hrest : ∀ j, 3 ≤ j → j < 4 → mag2 (spec (b + j)) ≤ t * t := fun j hj hj' => by
    obtain rfl : j = 3 := by omega
    exact h3
  rw [h.fdetGroup_eq (by decide) hrest]
  split_ifs with hrise
  · rw [h.scanBelow_third h0 h1 h2 hrise, apply_ite Scan.res, ite_self]
  · exact h.scanBelow_third_res h0 h1 h2 hrise

theorem fdetGroup_four (h : OnlyTone t spec g F b) (h0 : t * t < mag2 (spec b)) (h1 : t * t < mag2 (spec (b + 1)))
    (h2 : t * t < mag2 (spec (b + 2))) (h3 : t * t < mag2 (spec (b + 3))) :
    fdetGroup .bin t spec g =
      if mag2 (spec b) < mag2 (spec (b + 1)) ∧ mag2 (spec (b + 1)) < mag2 (spec (b + 2)) then (F : Int) else -1 := by
  have hfourth := h.isCandidate (j := 3) (by decide) h3
  rw [h.fdetGroup_eq (k := 4) le_rfl fun j hj hj' => absurd hj' (Nat.not_lt_of_le hj), ite_and]
  split_ifs with hrise hrise'
  · rw [scanBelow_bin_next h.pos ((h.scanBelow_third h0 h1 h2 hrise).trans (if_pos hrise')) hfourth,
      apply_ite Scan.res, ite_self]
  · have hheld := (h.scanBelow_third h0 h1 h2 hrise).trans (if_neg hrise')
    exact scanBelow_bin_far hfourth (by simpa [hheld] using h.pos) (by simp [hheld])
  · exact scanBelow_of_ambiguous (by omega) (h.scanBelow_third_res h0 h1 h2 hrise)

end OnlyTone

/-- R324's table: the four bins of each frequency. -/
theorem OnlyTone.of_table
    (htable : g = Config.lowFreqs ∧ (F, b) ∈ [(697, 43), (770, 48), (852, 53), (941, 59)] ∨
      g = Config.highFreqs ∧ (F, b) ∈ [(1209, 76), (1336, 84), (1477, 93), (1633, 103)])
    (helse : ∀ i f, i ≤ 256 → matchFreq g i = some f → (i < b ∨ b + 3 < i) → mag2 (spec i) ≤ t * t) :
    OnlyTone t spec g F b := by
  have hrow : F ≠ 0 ∧ b + 3 ≤ 256 ∧ ∀ j < 4, matchFreq g (b + j) = some F := by
    rcases htable with ⟨rfl, hmem⟩ | ⟨rfl, hmem⟩
    · have hlow : ∀ p ∈ [(697, 43), (770, 48), (852, 53), (941, 59)],
          p.1 ≠ 0 ∧ p.2 + 3 ≤ 256 ∧ ∀ j < 4, matchFreq Config.lowFreqs (p.2 + j) = some p.1 := by decide
      exact hlow _ hmem
    · have hhigh : ∀ p ∈ [(1209, 76), (1336, 84), (1477, 93), (1633, 103)],
          p.1 ≠ 0 ∧ p.2 + 3 ≤ 256 ∧ ∀ j < 4, matchFreq Config.highFreqs (p.2 + j) = some p.1 := by decide
      exact hhigh _ hmem
  obtain ⟨hpos, hrange, hmatch⟩ := hrow
  exact ⟨hpos, hrange, hmatch, fun i f hi hout hcand => Nat.not_lt_of_le (helse i f hi hcand.1 hout) hcand.2⟩

end

/-- Settles O37: the verdict on the frequencies found, and the path of the held best. -/
theorem fdetClosedForm : Obligations.FdetClosedForm := by
  refine ⟨fun t spec g hg => ?_, fun t spec h59 h61 h60 => ?_, fun t spec g F b htable helse h0 h1 => ?_⟩
  · have hverdict := verdict_fdetGroup (separated_of_group hg) t spec
    refine ⟨fun hnone => hverdict.eq_zero fun f hf => ?_, fun F hF hall => hverdict.eq_tone (foundBelow_all.mpr hF) ?_,
      fun i f i' f' hf hf' hne =>
        hverdict.eq_ambiguous (foundBelow_all.mpr ⟨i, hf⟩) (foundBelow_all.mpr ⟨i', hf'⟩) hne⟩
    · obtain ⟨i, hi⟩ := foundBelow_all.mp hf
      exact hnone i f hi
    · intro f hf
      obtain ⟨i, hi⟩ := foundBelow_all.mp hf
      exact hall i f hi
  · exact fdetGroup_bin_of_gap (b := 59) (F := 941) (f := 941) (separated_of_group (.inl rfl)) (by decide)
      ⟨by decide, h59⟩ (fun f hf => Nat.not_lt_of_le h60 hf.2) ⟨by decide, h61⟩
  · have htone := OnlyTone.of_table htable helse
    exact ⟨htone.fdetGroup_two h0 h1, htone.fdetGroup_three h0 h1, htone.fdetGroup_four h0 h1⟩

/-! ### The scan of `GDET` (R327, R328) -/

/-- The pairs of a group above the threshold. -/
def energiesAbove (gt : Nat) (l : List (Nat × Nat)) : List (Nat × Nat) := l.filter fun p => decide (gt < p.2)

theorem gdetGroup_of_found (gt : Nat) (l : List (Nat × Nat)) {found : Nat} (h : found ≠ 0) :
    gdetGroup gt l found = if energiesAbove gt l = [] then some found else none := by
  induction l with
  | nil => rfl
  | cons p l ih =>
    rw [gdetGroup]
    by_cases hp : gt < p.2
    · simp [energiesAbove, hp, h]
    · rw [if_neg hp, ih, energiesAbove, energiesAbove, List.filter_cons_of_neg (by simpa using hp)]

/-- A group's scan from the start: none, one or several energies above the threshold (R328). -/
theorem gdetGroup_eq (gt : Nat) {l : List (Nat × Nat)} (hpos : ∀ p ∈ l, p.1 ≠ 0) :
    gdetGroup gt l 0 =
      if 2 ≤ (energiesAbove gt l).length then none else some (((energiesAbove gt l).map Prod.fst).headD 0) := by
  induction l with
  | nil => rfl
  | cons p l ih =>
    obtain ⟨hp0, hl0⟩ := List.forall_mem_cons.mp hpos
    rw [gdetGroup]
    by_cases hp : gt < p.2
    · have hhits : energiesAbove gt (p :: l) = p :: energiesAbove gt l := List.filter_cons_of_pos (by simpa using hp)
      rw [if_pos hp, if_neg (not_not.mpr rfl), gdetGroup_of_found gt l hp0, hhits]
      cases energiesAbove gt l <;> simp
    · have hhits : energiesAbove gt (p :: l) = energiesAbove gt l := List.filter_cons_of_neg (by simpa using hp)
      rw [if_neg hp, hhits, ih hl0]

theorem zip_fst_ne_zero {g es : List Nat} (hg : ∀ f ∈ g, f ≠ 0) : ∀ p ∈ g.zip es, p.1 ≠ 0 :=
  fun _ hp => hg _ (List.of_mem_zip hp).1

theorem gdetPair_zip {gt : Nat} {es : List Nat} {low high : List (Nat × Nat)}
    (hlow : energiesAbove gt (Config.lowFreqs.zip (es.take 4)) = low)
    (hhigh : energiesAbove gt (Config.highFreqs.zip (es.drop 4)) = high) :
    gdetPair gt (Config.freqs.zip es) =
      if 2 ≤ low.length ∨ 2 ≤ high.length then (-1, -1)
      else (Int.ofNat ((low.map Prod.fst).headD 0), Int.ofNat ((high.map Prod.fst).headD 0)) := by
  have htake : (Config.freqs.zip es).take 4 = Config.lowFreqs.zip (es.take 4) := List.take_zipWith
  have hdrop : (Config.freqs.zip es).drop 4 = Config.highFreqs.zip (es.drop 4) := List.drop_zipWith
  rw [gdetPair, htake, hdrop, gdetGroup_eq gt (zip_fst_ne_zero (separated_of_group (.inl rfl)).pos), hlow,
    gdetGroup_eq gt (zip_fst_ne_zero (separated_of_group (.inr rfl)).pos), hhigh]
  by_cases hmany : 2 ≤ low.length
  · simp only [hmany, if_true, true_or]
  · by_cases hmany' : 2 ≤ high.length
    · simp only [hmany, hmany', if_true, if_false, or_true]
    · simp only [hmany, hmany', if_false, or_false, Int.ofNat_eq_natCast]

/-- Settles O39: the scans of the two groups, each by the energies above the threshold. -/
theorem gdetGroups : Obligations.GdetGroups := by
  intro gt es _
  refine ⟨fun h => (gdetPair_zip rfl rfl).trans (if_pos h), fun h => (gdetPair_zip rfl rfl).trans (if_neg ?_)⟩
  exact fun hmany => hmany.elim (Nat.not_le_of_lt (Nat.lt_succ_of_le h.1)) (Nat.not_le_of_lt (Nat.lt_succ_of_le h.2))

/-! ### The commits (R322, R327, R330, R341, R363) -/

/-- Settles O23: each job's commit is its unit's effect and the end of the job. -/
theorem detectorAndDecoderJobsCommit : Obligations.DetectorAndDecoderJobsCommit := by
  intro s
  refine ⟨fun hjob => ?_, fun hjob => ?_, fun hjob => ?_⟩
  · simp only [act, State.completeJob, hjob, completeFdet, State.endJob, State.runFdet, State.fdetPair, Config.lowFreqs,
      Config.highFreqs]
  · simp only [act, State.completeJob, hjob, completeGdet, State.endJob, State.runGdet, State.gdetTone]
  · simp only [act, State.completeJob, hjob, completeDecode, State.endJob, State.runDecode]

/-- With every energy at or below the threshold neither group has one that counts. -/
theorem gdetPair_zip_of_le {gt : Nat} {es : List Nat} (h : ∀ e ∈ es, e ≤ gt) :
    gdetPair gt (Config.freqs.zip es) = (0, 0) := by
  have hnone : ∀ g l : List Nat, l ⊆ es → energiesAbove gt (g.zip l) = [] := fun g l hl =>
    List.filter_eq_nil_iff.mpr fun p hp => by simpa using h p.2 (hl (List.of_mem_zip hp).2)
  rw [gdetPair_zip (hnone _ _ (List.take_subset 4 es)) (hnone _ _ (List.drop_subset 4 es))]
  rfl

theorem State.energies_le (s : State) {gt : Nat} (h : ∀ b, b < 8 → (s.energyAt b).toNat ≤ gt) :
    ∀ e ∈ s.energy.toList.map BitVec.toNat, e ≤ gt := by
  intro e he
  obtain ⟨v, hv, rfl⟩ := List.mem_map.mp he
  obtain ⟨b, hb, rfl⟩ := List.mem_iff_getElem.mp hv
  have hb8 : b < 8 := by simpa using hb
  simpa only [State.energyAt, List.getD_eq_getElem _ _ hb] using h b hb8

/-- Settles O38: no candidate in either group, and no energy that counts. -/
theorem belowThresholdIsSilence : Obligations.BelowThresholdIsSilence := by
  intro s
  obtain ⟨hfdet, hgdet, -⟩ := detectorAndDecoderJobsCommit s
  refine ⟨fun hjob hbelow => ?_, fun hjob hbelow => ?_⟩
  · have hsilent : ∀ g, fdetGroup s.par.fdetRef s.jobFt.toNat (fun k => valueOf (s.specBin k)) g = 0 := fun g =>
      fdetGroup_of_no_candidate fun i f hi hcand => Nat.not_lt_of_le (hbelow i hi) hcand.2
    rw [hfdet hjob, hsilent, hsilent]
    rfl
  · rw [hgdet hjob, State.energyPairs, gdetPair_zip_of_le (s.energies_le hbelow)]
    rfl

end Sys2Proof.Machine

namespace Sys2Proof.Machine

/-! ## The symbol decoder (R340-R349)

One equation for each outcome of `DECODE_STEP` and what each outcome leaves in the sequence; then runs of decodes, first
of one symbol and then of a whole sequence. -/

/-! ### What a pair of frequencies resolves to (R340, R341 steps 1 to 3) -/

theorem groupIndex_eq_none {g : List Nat} {v : Int} (h : v ∉ g.map Nat.cast) : groupIndex g v = none := by
  simp only [groupIndex, bind_pure_comp, List.map_eq_map, List.findIdx?_eq_none_iff, decide_eq_false_iff_not]
  exact fun _ hf hv => h (hv ▸ hf)

/-- The frequency of a row of keys (R340). -/
def rowTone (r : Fin 4) : Int := [697, 770, 852, 941][r]

/-- The frequency of a column of keys (R340). -/
def columnTone (c : Fin 4) : Int := [1209, 1336, 1477, 1633][c]

theorem rowTone_spec :
    ∀ r : Fin 4, rowTone r ≠ 0 ∧ rowTone r ≠ -1 ∧ groupIndex Config.lowFreqs (rowTone r) = some r.val := by
  decide

theorem columnTone_spec :
    ∀ c : Fin 4, columnTone c ≠ 0 ∧ columnTone c ≠ -1 ∧ groupIndex Config.highFreqs (columnTone c) = some c.val := by
  decide

section
variable {lo hi : Int}

theorem State.decodeStep_of_silent (s : State) (h : lo = 0 ∨ hi = 0) : s.decodeStep lo hi = s.decodeNoise := if_pos h

theorem State.decodeStep_of_ambiguous (s : State) (h0 : ¬ (lo = 0 ∨ hi = 0)) (h : lo = -1 ∨ hi = -1) :
    s.decodeStep lo hi = s.decodeMultitone :=
  (if_neg h0).trans (if_pos h)

theorem State.decodeStep_of_not_tone (s : State) (h0 : ¬ (lo = 0 ∨ hi = 0)) (h1 : ¬ (lo = -1 ∨ hi = -1))
    (h : groupIndex Config.lowFreqs lo = none ∨ groupIndex Config.highFreqs hi = none) :
    s.decodeStep lo hi = s.decodeNoise := by
  rw [State.decodeStep, if_neg h0, if_neg h1]
  obtain hlow | hhigh := h
  · rw [hlow]
  · rw [hhigh]
    cases groupIndex Config.lowFreqs lo <;> rfl

end

theorem State.decodeStep_key (s : State) (r c : Fin 4) :
    s.decodeStep (rowTone r) (columnTone c) = s.decodeSymbol (keyCode r c) := by
  obtain ⟨hlow0, hlow1, hrow⟩ := rowTone_spec r
  obtain ⟨hhigh0, hhigh1, hcol⟩ := columnTone_spec c
  rw [State.decodeStep, if_neg (not_or_intro hlow0 hhigh0), if_neg (not_or_intro hlow1 hhigh1), hrow, hcol]

/-- Settles O26: the clauses are the decoder's branches in their order. -/
theorem decoderRejectsNonKeys : Obligations.DecoderRejectsNonKeys := by
  intro s lo hi
  refine ⟨s.decodeStep_of_silent, fun hlo hhi => s.decodeStep_of_ambiguous (not_or_intro hlo hhi), ?_⟩
  intro hlo hhi hlo1 hhi1 hnone
  exact s.decodeStep_of_not_tone (not_or_intro hlo hhi) (not_or_intro hlo1 hhi1)
    (hnone.imp groupIndex_eq_none groupIndex_eq_none)

/-! ### What becomes of a symbol (R341 steps 4 and 5) -/

/-- A symbol appended to the sequence (R341 step 5, with room). -/
def State.appendSymbol (s : State) (sym : Byte) : State :=
  (State.setResult { s.setSeqChar s.seqLen.toNat sym with seqLen := s.seqLen + 1, lastChar := sym } .accepted
    sym).signal .symbol

/-- A symbol for which the sequence has no room (R341 step 5). -/
def State.overflowSymbol (s : State) (sym : Byte) : State := (s.setResult .overflow sym).signal .overflow

theorem State.decodeSymbol_held {s : State} {sym : Byte} (h : sym = s.lastChar) :
    s.decodeSymbol sym = s.setResult .hold sym :=
  if_pos h

theorem State.decodeSymbol_room {s : State} {sym : Byte} (h : sym ≠ s.lastChar) (room : s.seqLen.toNat < s.seqCap) :
    s.decodeSymbol sym = s.appendSymbol sym :=
  (if_neg h).trans (if_pos room)

theorem State.decodeSymbol_full {s : State} {sym : Byte} (h : sym ≠ s.lastChar)
    (full : ¬ s.seqLen.toNat < s.seqCap) : s.decodeSymbol sym = s.overflowSymbol sym :=
  (if_neg h).trans (if_neg full)

@[simp] theorem State.appendSymbol_seqLen (s : State) (sym : Byte) : (s.appendSymbol sym).seqLen = s.seqLen + 1 := rfl
@[simp] theorem State.appendSymbol_lastChar (s : State) (sym : Byte) : (s.appendSymbol sym).lastChar = sym := rfl
@[simp] theorem State.appendSymbol_seqCap (s : State) (sym : Byte) : (s.appendSymbol sym).seqCap = s.seqCap := rfl

theorem State.appendSymbol_registers (s : State) (sym : Byte) :
    { s.appendSymbol sym with mem := s.mem } =
      { s with
        seqLen := s.seqLen + 1, lastChar := sym, resultCode := .accepted, resultSym := sym,
        event := s.event ||| 0x020#9 } := by
  simp only [State.appendSymbol, State.setResult, State.signal, State.setSeqChar, State.writeBytes]
  rfl

theorem State.appendSymbol_readByte_same (s : State) (sym : Byte) :
    (s.appendSymbol sym).readByte (seqAddr s.seqLen.toNat) = sym :=
  s.seqChar_setSeqChar_same s.seqLen.toNat sym

theorem State.appendSymbol_readByte_other (s : State) (sym : Byte) {a : Nat} (h : a ≠ seqAddr s.seqLen.toNat) :
    (s.appendSymbol sym).readByte a = s.readByte a := by
  refine s.readByte_writeBytes_outside (bs := [sym]) ?_
  rw [List.length_singleton]
  omega

theorem State.appendSymbol_seqChar_same (s : State) (sym : Byte) :
    (s.appendSymbol sym).seqChar s.seqLen.toNat = sym :=
  s.appendSymbol_readByte_same sym

theorem State.appendSymbol_seqChar_other (s : State) (sym : Byte) {i : Nat} (h : i ≠ s.seqLen.toNat) :
    (s.appendSymbol sym).seqChar i = s.seqChar i :=
  s.seqChar_setSeqChar_other sym h

/-- The matrix of R340, row after row. -/
theorem keyCode_eq_flatten : ∀ r c : Fin 4,
    [[0x31#8, 0x32#8, 0x33#8, 0x41#8], [0x34#8, 0x35#8, 0x36#8, 0x42#8], [0x37#8, 0x38#8, 0x39#8, 0x43#8],
      [0x2A#8, 0x30#8, 0x23#8, 0x44#8]].flatten.getD (4 * r + c) 0#8 = keyCode r c := by
  decide

/-- Settles O27: a key's pair is its symbol, and the clauses are what becomes of a symbol. -/
theorem decoderResolvesKeys : Obligations.DecoderResolvesKeys := by
  intro s r c lo hi sym
  have hsym : sym = keyCode r c := keyCode_eq_flatten r c
  have hstep : s.decodeStep lo hi = s.decodeSymbol sym := hsym ▸ s.decodeStep_key r c
  rw [hstep]
  refine ⟨State.decodeSymbol_held, fun hnew room => ?_, State.decodeSymbol_full⟩
  exact ⟨_, State.decodeSymbol_room hnew room, s.appendSymbol_registers sym, s.appendSymbol_readByte_same sym,
    fun _ => s.appendSymbol_readByte_other sym⟩

theorem keyCode_ne_noiseChar : ∀ r c : Fin 4, keyCode r c ≠ noiseChar := by decide

theorem keyCode_injective : ∀ r c r' c' : Fin 4, keyCode r c = keyCode r' c' → r = r' ∧ c = c' := by decide

/-- Settles O28: no key's symbol is 'N', so each is appended. -/
theorem keysRoundTrip : Obligations.KeysRoundTrip := by
  refine ⟨fun s r c hlast room => ?_, keyCode_injective⟩
  have hnew : keyCode r c ≠ s.lastChar := hlast ▸ keyCode_ne_noiseChar r c
  have hstep := (s.decodeStep_key r c).trans (State.decodeSymbol_room hnew room)
  intro t
  rw [show t = s.appendSymbol (keyCode r c) from hstep]
  exact ⟨rfl, s.appendSymbol_seqChar_same _, fun _ => s.appendSymbol_seqChar_other _⟩

/-! ### Runs of one symbol (R348, R349) -/

theorem State.overflowSymbol_overflowSymbol (s : State) (sym : Byte) :
    (s.overflowSymbol sym).overflowSymbol sym = s.overflowSymbol sym := by
  simp only [State.overflowSymbol, State.setResult, State.signal, BitVec.or_assoc, BitVec.or_self]

/-- A run that reaches a fixed point at its first application stays there. -/
theorem iterate_succ_eq_of_fixed {α : Type} {f : α → α} {x y : α} (hx : f x = y) (hy : f y = y) (n : Nat) :
    f^[n + 1] x = y := by
  rw [Function.iterate_succ_apply, hx, Function.iterate_fixed hy]

theorem State.iterate_decodeSymbol_held {s : State} {sym : Byte} (h : sym = s.lastChar) (n : Nat) :
    (fun u : State => u.decodeSymbol sym)^[n + 1] s = s.setResult .hold sym :=
  iterate_succ_eq_of_fixed (f := fun u : State => u.decodeSymbol sym) (State.decodeSymbol_held h)
    (State.decodeSymbol_held (s := s.setResult .hold sym) h) n

theorem State.iterate_decodeSymbol_full {s : State} {sym : Byte} (h : sym ≠ s.lastChar)
    (full : ¬ s.seqLen.toNat < s.seqCap) (n : Nat) :
    (fun u : State => u.decodeSymbol sym)^[n + 1] s = s.overflowSymbol sym :=
  iterate_succ_eq_of_fixed (f := fun u : State => u.decodeSymbol sym) (State.decodeSymbol_full h full)
    ((State.decodeSymbol_full (s := s.overflowSymbol sym) h full).trans (s.overflowSymbol_overflowSymbol sym)) n

theorem decodeStep_key_eq_decodeSymbol (r c : Fin 4) :
    (fun u : State => u.decodeStep (rowTone r) (columnTone c)) = fun u => u.decodeSymbol (keyCode r c) :=
  funext fun u => u.decodeStep_key r c

/-- Settles O29: after the one append the symbol is `LAST_CHAR`, and every further decode holds it. -/
theorem repeatedToneAppendsOnce : Obligations.RepeatedToneAppendsOnce := by
  intro s r c k hnew room t
  have ht : t = (fun u : State => u.decodeSymbol (keyCode r c))^[k] (s.appendSymbol (keyCode r c)) := by
    rw [← State.decodeSymbol_room hnew room, ← decodeStep_key_eq_decodeSymbol, ← s.decodeStep_key]
    exact Function.iterate_succ_apply _ _ _
  have hsame := s.appendSymbol_seqChar_same (keyCode r c)
  have hother := fun i (hi : i ≠ s.seqLen.toNat) => s.appendSymbol_seqChar_other (keyCode r c) hi
  cases k with
  | zero =>
    rw [ht]
    exact ⟨rfl, rfl, hsame, hother, rfl, rfl⟩
  | succ n =>
    rw [ht, State.iterate_decodeSymbol_held (s.appendSymbol_lastChar _).symm]
    exact ⟨rfl, rfl, hsame, hother, rfl, rfl⟩

/-! ### A whole sequence (R341, R349) -/

theorem Params.seqCap_range {p : Params} (h : p.legal = true) : 0 < p.seqCap ∧ p.seqCap ≤ 255 := by
  simp only [Params.legal, decide_eq_true_eq] at h
  simp only [Params.seqCap]
  omega

/-- While there is room, symbols that differ from one to the next are all appended. -/
theorem State.foldl_decodeSymbol_eq_appendSymbol {s : State} {syms : List Byte} (hcap : s.seqCap ≤ 255)
    (room : s.seqLen.toNat + syms.length ≤ s.seqCap) (hchain : (s.lastChar :: syms).IsChain (· ≠ ·)) :
    syms.foldl State.decodeSymbol s = syms.foldl State.appendSymbol s := by
  induction syms generalizing s with
  | nil => rfl
  | cons sym syms ih =>
    rw [List.length_cons] at room
    obtain ⟨hnew, hrest⟩ := List.isChain_cons_cons.mp hchain
    have hlen : (s.seqLen + 1).toNat = s.seqLen.toNat + 1 := by bv_omega
    rw [List.foldl_cons, List.foldl_cons, State.decodeSymbol_room (Ne.symm hnew) (by omega)]
    exact ih hcap (by rw [State.appendSymbol_seqLen, State.appendSymbol_seqCap, hlen]; omega) hrest

theorem State.foldl_appendSymbol_seqLen (s : State) (syms : List Byte) :
    (syms.foldl State.appendSymbol s).seqLen = s.seqLen + BitVec.ofNat 8 syms.length := by
  induction syms generalizing s with
  | nil => exact (BitVec.add_zero _).symm
  | cons sym syms ih =>
    rw [List.foldl_cons, ih, State.appendSymbol_seqLen, List.length_cons, BitVec.ofNat_add, BitVec.add_assoc,
      BitVec.add_comm 1]
    rfl

theorem State.foldl_appendSymbol_length {s : State} {syms : List Byte}
    (h0 : s.seqLen = 0#8) (hlen : syms.length ≤ 255) :
    (syms.foldl State.appendSymbol s).seqLen.toNat = syms.length := by
  rw [s.foldl_appendSymbol_seqLen, h0, BitVec.zero_add, BitVec.toNat_ofNat, Nat.mod_eq_of_lt (by omega)]

theorem State.foldl_appendSymbol_seqCap (s : State) (syms : List Byte) :
    (syms.foldl State.appendSymbol s).seqCap = s.seqCap := by
  induction syms generalizing s with
  | nil => rfl
  | cons sym syms ih => exact (ih _).trans (s.appendSymbol_seqCap sym)

theorem State.foldl_appendSymbol_resultCode (s : State) {syms : List Byte} (h : syms ≠ []) :
    (syms.foldl State.appendSymbol s).resultCode = .accepted := by
  rw [← List.dropLast_concat_getLast h, List.foldl_concat]
  rfl

/-- Symbols appended to an empty sequence stand in it in order; each append leaves the earlier entries alone. -/
theorem State.foldl_appendSymbol_seqChar {s : State} {syms : List Byte} (h0 : s.seqLen = 0#8)
    (hlen : syms.length ≤ 255) {i : Nat} (hi : i < syms.length) :
    some ((syms.foldl State.appendSymbol s).seqChar i) = syms[i]? := by
  induction syms using List.reverseRecOn with
  | nil => exact absurd hi (Nat.not_lt_zero i)
  | append_singleton syms sym ih =>
    rw [List.length_append, List.length_singleton] at hlen hi
    have hend := State.foldl_appendSymbol_length h0 (by omega : syms.length ≤ 255)
    rw [List.foldl_concat]
    obtain hlt | rfl := Nat.lt_succ_iff_lt_or_eq.mp hi
    · rw [State.appendSymbol_seqChar_other _ _ (by omega), List.getElem?_append_left hlt]
      exact ih (by omega) hlt
    · rw [← hend, State.appendSymbol_seqChar_same, hend, List.getElem?_concat_length]

/-- Settles O30: the keys' symbols are all appended, after which the sequence is full and every new symbol overflows. -/
theorem overflowAtCapacity : Obligations.OverflowAtCapacity := by
  intro s keys hlegal h0 hkeys hchain decodeKey t
  obtain ⟨hpos, hcap⟩ : 0 < s.seqCap ∧ s.seqCap ≤ 255 := Params.seqCap_range hlegal
  have hdecodeKey : decodeKey = fun u k => u.decodeSymbol (keyCode k.1 k.2) :=
    funext fun u => funext fun k => u.decodeStep_key k.1 k.2
  generalize hsyms : keys.map (fun k => keyCode k.1 k.2) = syms at hchain
  have hlen : syms.length = s.seqCap := by rw [← hsyms, List.length_map, hkeys]
  have ht : t = syms.foldl State.appendSymbol s := by
    have room : s.seqLen.toNat + syms.length ≤ s.seqCap := by rw [h0, BitVec.toNat_zero, Nat.zero_add, hlen]
    rw [← State.foldl_decodeSymbol_eq_appendSymbol hcap room hchain, ← hsyms, List.foldl_map, ← hdecodeKey]
  have hseqLen : t.seqLen.toNat = s.seqCap := by rw [ht, State.foldl_appendSymbol_length h0 (hlen ▸ hcap), hlen]
  have hseqCap : t.seqCap = s.seqCap := by rw [ht, State.foldl_appendSymbol_seqCap]
  refine ⟨hseqLen, ?_, fun i hi => ?_, fun k n hnew => ?_⟩
  · rw [ht, s.foldl_appendSymbol_resultCode (List.ne_nil_of_length_pos (hlen ▸ hpos))]
  · rw [ht, State.foldl_appendSymbol_seqChar h0 (hlen ▸ hcap) (hlen ▸ hi), ← hsyms, List.getElem?_map]
  · rw [hdecodeKey, State.iterate_decodeSymbol_full hnew (by rw [hseqLen, hseqCap]; exact Nat.lt_irrefl _)]
    rfl

/-! ### The reset of the sequence (R346) -/

/-- R166: a window entry at or above `SEQ_LEN` reads 0. -/
theorem readVal_seq_of_le {s : State} {i : Nat} (h : s.seqLen.toNat ≤ i) : readVal s (.seq i) = 0#32 :=
  if_neg (Nat.not_lt_of_le h)

/-- Settles O17: with `SEQ_LEN` 0 no entry of the window is below it. -/
theorem sequenceReset : Obligations.SequenceReset := by
  refine ⟨decode_eq_ok_iff_eq rfl, fun s => ⟨rfl, fun i hi => ?_⟩⟩
  exact answers_readVal (accessLoc_seq hi) rfl (readVal_seq_of_le (Nat.zero_le i))

end Sys2Proof.Machine

namespace Sys2Proof.Machine

/-! ## The sequencer (R360-R371)

A job command has one accepted and one refused answer. What a job does at its commit looks neither at `JOB` nor at the
bus's last answer; that is why the manual sequence and `PROCESS` reach the same state. -/

/-! ### The step that writes a command word (R3, R115, R367) -/

theorem step_of_agenda {s : State} {a : Action} {rest : List Action} (h : s.agenda = a :: rest) :
    step s = perform a { s with agenda := rest } := by
  simp only [step, State.nextStep, h]

/-- The write of a legal command word runs its command, with the bus's answer recorded. -/
theorem perform_cmdWriteAction {w : Word} {i : Instr} (h : decode w = .ok i) (s : State) :
    perform (cmdWriteAction w) s = exec i { s with resp := .write false } := by
  have hcmd : accessLoc 0x018#16 0xF#4 = some .cmd := rfl
  simp only [perform, cmdWriteAction, enabled, act, busWrite, hcmd, cmdWrite, h, if_true]

/-- Settles O6: `withFetchWord` puts the write of the word at the head of the agenda. -/
theorem stepRunsDecodedCommand : Obligations.StepRunsDecodedCommand := by
  have hhead (s : State) (w : Word) (i : Instr) (rest : List Action) (hs : s.agenda = cmdWriteAction w :: rest)
      (hw : decode w = .ok i) : step s = exec i { s with agenda := rest, resp := .write false } := by
    rw [step_of_agenda hs, perform_cmdWriteAction hw]
  refine ⟨hhead, fun s w i hw => hhead (s.withFetchWord 32 w.toNat) w i s.agenda ?_ hw⟩
  rw [State.withFetchWord, Nat.mod_eq_of_lt w.isLt, BitVec.ofNat_toNat, BitVec.setWidth_eq]
  rfl

/-! ### The answers of a job command (R361, R367) -/

section
variable {s : State}

theorem runJobCommand_accepted (hauto : s.auto = false) (hidle : s.job = .none) (j : Job) :
    runJobCommand j s = .next (s.startJob j) := by
  simp [runJobCommand, hauto, s.busy_eq_false_iff.mpr hidle]

theorem runJobFrameCommand_accepted (hauto : s.auto = false) (hidle : s.job = .none) (hrdy : s.rdyP = true) (j : Job) :
    runJobFrameCommand j s = .next (s.startJob j) := by
  simp [runJobFrameCommand, hauto, s.busy_eq_false_iff.mpr hidle, hrdy]

theorem runJobCommand_refused (h : s.auto = true ∨ s.job ≠ .none) (j : Job) :
    runJobCommand j s = .next (s.signal .cmdErr) :=
  if_pos (by simpa [State.busy] using h)

theorem runJobFrameCommand_refused (h : s.auto = true ∨ s.job ≠ .none ∨ s.rdyP = false) (j : Job) :
    runJobFrameCommand j s = .next (s.signal .cmdErr) :=
  if_pos (by simpa [State.busy, or_assoc] using h)

end

/-- Settles O16: each command is the one answer of its class. -/
theorem jobCommandsStart : Obligations.JobCommandsStart := by
  intro s hauto hidle
  simp only [List.forall_mem_cons, List.not_mem_nil, false_implies, implies_true, and_true]
  have hjob := runJobCommand_accepted hauto hidle
  refine ⟨⟨hjob .fdet, hjob .gdet, hjob .decode⟩, fun hrdy => ?_⟩
  have hframe := runJobFrameCommand_accepted hauto hidle hrdy
  exact ⟨hframe .fftRun, hframe .goeRun, hframe .process, hframe .release⟩

/-! ### The table of preconditions (R368) -/

theorem State.requestConfirm_event (s : State) : s.requestConfirm.event = s.event := by
  obtain ⟨-, hs⟩ | ⟨-, hs⟩ := s.requestConfirm_cases <;> rw [hs]

theorem exec_any_event {i : Instr} (hi : i.commandClass = .any) (s : State) :
    ∃ t, exec i s = .next t ∧ t.event = s.event := by
  cases i with
  | nop => exact ⟨s, rfl, rfl⟩
  | seqReset => exact ⟨_, rfl, rfl⟩
  | calConfirm => exact ⟨_, rfl, s.requestConfirm_event⟩
  | cadd | csub | cmul _ | cmag2 | cmag | cpolar _ | cbfly _ | fftRun | goeRun | fdet | gdet | decode | process
  | release => cases hi

/-- What a command of the complex unit does signals no event. -/
theorem exec_cu {i : Instr} (hi : i.commandClass = .cu) :
    ∃ f, exec i = runCuCommand f ∧ ∀ s, (f s).event = s.event := by
  cases i with
  | cadd | csub | cmul _ | cmag2 | cmag | cpolar _ | cbfly _ => exact ⟨_, rfl, fun _ => rfl⟩
  | nop | fftRun | goeRun | fdet | gdet | decode | process | release | seqReset | calConfirm => cases hi

theorem exec_job {i : Instr} (hi : i.commandClass = .job) : ∃ j, exec i = runJobCommand j := by
  cases i with
  | fdet => exact ⟨.fdet, rfl⟩
  | gdet => exact ⟨.gdet, rfl⟩
  | decode => exact ⟨.decode, rfl⟩
  | nop | cadd | csub | cmul _ | cmag2 | cmag | cpolar _ | cbfly _ | fftRun | goeRun | process | release | seqReset
  | calConfirm => cases hi

theorem exec_jobFrame {i : Instr} (hi : i.commandClass = .jobFrame) : ∃ j, exec i = runJobFrameCommand j := by
  cases i with
  | fftRun => exact ⟨.fftRun, rfl⟩
  | goeRun => exact ⟨.goeRun, rfl⟩
  | process => exact ⟨.process, rfl⟩
  | release => exact ⟨.release, rfl⟩
  | nop | cadd | csub | cmul _ | cmag2 | cmag | cpolar _ | cbfly _ | fdet | gdet | decode | seqReset
  | calConfirm => cases hi

/-- Settles O19: a class has one precondition; only the complex unit's commands differ in what they do once accepted. -/
theorem commandAcceptanceTable : Obligations.CommandAcceptanceTable := by
  refine ⟨fun i s => ⟨fun hi => exec_any_event hi s, fun hi => ?cu, fun hi => ?job, fun hi => ?jobFrame⟩, rfl, rfl,
    fun _ => rfl, rfl, rfl⟩
  case cu =>
    obtain ⟨f, hf, hevent⟩ := exec_cu hi
    exact ⟨fun hidle => ⟨f s, hf ▸ runCuCommand_idle hidle f, hevent s⟩, exec_cu_busy hi⟩
  case job =>
    obtain ⟨j, hj⟩ := exec_job hi
    rw [hj]
    exact ⟨fun ⟨hauto, hidle⟩ => ⟨_, runJobCommand_accepted hauto hidle j, rfl⟩, fun h => runJobCommand_refused h j⟩
  case jobFrame =>
    obtain ⟨j, hj⟩ := exec_jobFrame hi
    rw [hj]
    exact ⟨fun ⟨hauto, hidle, hrdy⟩ => ⟨_, runJobFrameCommand_accepted hauto hidle hrdy j, rfl⟩,
      fun h => runJobFrameCommand_refused h j⟩

/-! ### The confirmation (R241, R370) -/

/-- Settles O18: the command and the pin edge are one request. -/
theorem calibrationConfirm : Obligations.CalibrationConfirm := by
  refine ⟨decode_eq_ok_iff_eq rfl, fun s => ?_⟩
  obtain ⟨huncalibrated, hcalibrated, -⟩ := internalSteps s
  exact ⟨huncalibrated, hcalibrated, rfl⟩

/-! ### The release of the token (R246, R366) -/

theorem State.releaseToken_endJob_held {s : State} (h : s.rdyP = true) :
    s.releaseToken.endJob = { s with rdyP := false, clrPend := true, event := s.event ||| 0x040#9, job := .none } := by
  rw [State.releaseToken_held h]
  rfl

/-- Settles O25. -/
theorem releaseCommits : Obligations.ReleaseCommits := by
  intro s hjob
  have hact : act .complete s = .next s.releaseToken.endJob := by
    simp only [act, State.completeJob, hjob, completeRelease]
  refine ⟨fun hheld => ?_, fun hnot => ?_⟩
  · rw [hact, State.releaseToken_endJob_held hheld]
  · rw [hact, State.releaseToken_notHeld hnot]
    rfl

/-! ### The decoder decides, then acts (R341) -/

/-- What a decode does to the state once it has decided. -/
inductive DecodeAction : (State → State) → Prop where
  | noise : DecodeAction State.decodeNoise
  | multitone : DecodeAction State.decodeMultitone
  | hold (sym : Byte) : DecodeAction (·.setResult .hold sym)
  | append (sym : Byte) : DecodeAction (·.appendSymbol sym)
  | overflow (sym : Byte) : DecodeAction (·.overflowSymbol sym)

/-- Two states agree on all that a decode decides by, next to the pair of frequencies. -/
structure SameSequence (s v : State) : Prop where
  lastChar : v.lastChar = s.lastChar
  seqLen : v.seqLen = s.seqLen
  seqCap : v.seqCap = s.seqCap

theorem exists_symbolAction (s : State) (sym : Byte) :
    ∃ e, DecodeAction e ∧ ∀ v, SameSequence s v → v.decodeSymbol sym = e v := by
  by_cases hheld : sym = s.lastChar
  · exact ⟨_, .hold sym, fun v hv => State.decodeSymbol_held (hheld.trans hv.lastChar.symm)⟩
  have hnew {v : State} (hv : SameSequence s v) : sym ≠ v.lastChar := hv.lastChar.symm ▸ hheld
  by_cases room : s.seqLen.toNat < s.seqCap
  · refine ⟨_, .append sym, fun v hv => State.decodeSymbol_room (hnew hv) ?_⟩
    rwa [hv.seqLen, hv.seqCap]
  · refine ⟨_, .overflow sym, fun v hv => State.decodeSymbol_full (hnew hv) ?_⟩
    rwa [hv.seqLen, hv.seqCap]

/-- A decode decides by the pair and the sequence: states that agree on these get one action. -/
theorem exists_decodeAction (s : State) (lo hi : Int) :
    ∃ e, DecodeAction e ∧ ∀ v, SameSequence s v → v.decodeStep lo hi = e v := by
  by_cases h0 : lo = 0 ∨ hi = 0
  · exact ⟨_, .noise, fun v _ => v.decodeStep_of_silent h0⟩
  by_cases h1 : lo = -1 ∨ hi = -1
  · exact ⟨_, .multitone, fun v _ => v.decodeStep_of_ambiguous h0 h1⟩
  cases hrow : groupIndex Config.lowFreqs lo with
  | none => exact ⟨_, .noise, fun v _ => v.decodeStep_of_not_tone h0 h1 (.inl hrow)⟩
  | some r =>
    cases hcol : groupIndex Config.highFreqs hi with
    | none => exact ⟨_, .noise, fun v _ => v.decodeStep_of_not_tone h0 h1 (.inr hcol)⟩
    | some c =>
      obtain ⟨e, he, hsymbol⟩ := exists_symbolAction s (keyCode r c)
      refine ⟨e, he, fun v hv => ?_⟩
      rw [State.decodeStep, if_neg h0, if_neg h1, hrow, hcol, ← hsymbol v hv]

namespace DecodeAction
variable {e : State → State}

/-- The registers that a decode writes. -/
theorem frame (he : DecodeAction e) (s : State) :
    e s = { s with
            mem := (e s).mem, lastChar := (e s).lastChar, seqLen := (e s).seqLen, resultCode := (e s).resultCode,
            resultSym := (e s).resultSym, event := (e s).event } := by
  cases he with
  | noise | multitone | hold _ | append _ | overflow _ => rfl

/-- What a decode writes to the registers does not depend on what the engines and detectors write. -/
theorem of_job_results (he : DecodeAction e) (s : State) (m : Memory) (en : Vector Dword 8) (p : TonePair) :
    e { s with mem := m, energy := en, tone := p } =
      { e s with mem := (e { s with mem := m, energy := en, tone := p }).mem, energy := en, tone := p } := by
  cases he with
  | noise | multitone | hold _ | append _ | overflow _ => rfl

theorem readByte_congr (he : DecodeAction e) {s v : State} (hlen : v.seqLen = s.seqLen) {a : Nat}
    (ha : v.readByte a = s.readByte a) : (e v).readByte a = (e s).readByte a := by
  cases he with
  | noise | multitone | hold _ | overflow _ => exact ha
  | append sym =>
    by_cases hnew : a = seqAddr s.seqLen.toNat
    · rw [hnew, s.appendSymbol_readByte_same, ← hlen, v.appendSymbol_readByte_same]
    · rw [s.appendSymbol_readByte_other sym hnew, v.appendSymbol_readByte_other sym (hlen ▸ hnew), ha]

/-- A decode writes no byte above `SEQ` (R141, R341). -/
theorem readByte_above (he : DecodeAction e) (s : State) {a : Nat} (ha : 0x800 ≤ a) :
    (e s).readByte a = s.readByte a := by
  cases he with
  | noise | multitone | hold _ | overflow _ => rfl
  | append sym =>
    refine s.appendSymbol_readByte_other sym ?_
    have hlen := s.seqLen.isLt
    rw [seqAddr]
    omega

end DecodeAction

theorem State.runDecode_frame (s : State) :
    s.runDecode = { s with
      mem := s.runDecode.mem, lastChar := s.runDecode.lastChar, seqLen := s.runDecode.seqLen,
      resultCode := s.runDecode.resultCode, resultSym := s.runDecode.resultSym, event := s.runDecode.event } := by
  obtain ⟨e, he, hdecode⟩ := exists_decodeAction s s.tone.low.toInt s.tone.high.toInt
  rw [State.runDecode, hdecode s ⟨rfl, rfl, rfl⟩, ← he.frame]

/-! ### The commit of `PROCESS` (R365) -/

/-- The engine and the detector write the spectrum, the energies and the tone pair. -/
theorem State.runSelected_frame (s : State) :
    s.runSelected =
      { s with mem := s.runSelected.mem, energy := s.runSelected.energy, tone := s.runSelected.tone } := by
  cases h : s.jobAlg with
  | fft => simp only [State.runSelected, h, State.runFdet, State.runFft, State.setSpectrum, State.writeBytes]
  | goertzel => simp only [State.runSelected, h, State.runGdet, State.runGoertzel]

theorem State.specBin_runFft (s : State) {k : Nat} (hk : k < 512) :
    some (s.runFft.specBin k) = (fft (s.frameSamples s.jobFidx))[k]?.map storedOf := by
  have hlen := length_fft (s.length_frameSamples s.jobFidx)
  have hbin := List.getElem?_eq_getElem (hlen ▸ hk : k < (fft (s.frameSamples s.jobFidx)).length)
  rw [hbin, Option.map_some, State.runFft, s.specBin_setSpectrum hbin]

theorem State.readByte_runSelected_outside (s : State) {a : Nat} (ha : a < 0x4000 ∨ 0x5000 ≤ a) :
    s.runSelected.readByte a = s.readByte a := by
  have hlen := length_fft (s.length_frameSamples s.jobFidx)
  unfold State.runSelected
  split
  case h_1 => exact (State.readByte_congr (by simp) (by simp) a).trans (s.readByte_setSpectrum_outside hlen ha)
  case h_2 => exact State.readByte_congr (by simp) (by simp) a

theorem State.specBin_of_bytes {s t : State} (h : ∀ a, 0x4000 ≤ a → t.readByte a = s.readByte a) (k : Nat) :
    t.specBin k = s.specBin k := by
  have haddr : 0x4000 ≤ binAddr k := Nat.le_add_right _ _
  simp (disch := omega) only [State.specBin, State.readWord, h]

/-- The decode of `PROCESS` acts as one of the state before the engine ran, on the new tone pair. -/
theorem State.exists_runDecode_runSelected (s : State) :
    ∃ e, DecodeAction e ∧ s.runSelected.runDecode = e s.runSelected ∧
      s.decodeStep s.runSelected.tone.low.toInt s.runSelected.tone.high.toInt = e s := by
  obtain ⟨e, he, hdecode⟩ := exists_decodeAction s s.runSelected.tone.low.toInt s.runSelected.tone.high.toInt
  refine ⟨e, he, hdecode s.runSelected ?_, hdecode s ⟨rfl, rfl, rfl⟩⟩
  rw [s.runSelected_frame]
  exact ⟨rfl, rfl, rfl⟩

/-- With the token held, the commit is what the decode leaves, with the token returned and the job ended. -/
theorem completeProcess_held {s : State} (hrdy : s.rdyP = true) {e : State → State} (he : DecodeAction e)
    (hdecode : s.runSelected.runDecode = e s.runSelected) :
    completeProcess s =
      { e s.runSelected with
        rdyP := false, clrPend := true, event := (e s.runSelected).event ||| 0x040#9, job := .none } := by
  have hrdy' : (e s.runSelected).rdyP = true := by rw [he.frame, s.runSelected_frame, hrdy]
  rw [completeProcess, hdecode, State.releaseToken_endJob_held hrdy']

/-- What the FFT engine and its detector leave (R284, R322). -/
theorem State.runSelected_fft {s : State} (halg : s.jobAlg = .fft) :
    s.runSelected.energy = s.energy ∧
      (∀ k, k < 512 → some (s.runSelected.specBin k) = (fft (s.frameSamples s.jobFidx))[k]?.map storedOf) ∧
      s.runSelected.tone.low = BitVec.ofInt 16
        (fdetGroup s.par.fdetRef s.jobFt.toNat (fun k => valueOf (s.runSelected.specBin k)) Config.lowFreqs) ∧
      s.runSelected.tone.high = BitVec.ofInt 16
        (fdetGroup s.par.fdetRef s.jobFt.toNat (fun k => valueOf (s.runSelected.specBin k)) Config.highFreqs) := by
  have hselected : s.runSelected = s.runFft.runFdet := by rw [State.runSelected, halg]
  have hbins : s.runFft.runFdet.specBin = s.runFft.specBin :=
    funext (State.specBin_congr s.runFft.runFdet_mem s.runFft.runFdet_epoch)
  rw [hselected, hbins, State.runFdet_tone, State.runFdet_energy]
  exact ⟨rfl, fun k hk => s.specBin_runFft hk, rfl, rfl⟩

/-- What the Goertzel bank and its detector leave (R303, R327). -/
theorem State.runSelected_goertzel {s : State} (halg : s.jobAlg = .goertzel) :
    (∀ a, s.runSelected.readByte a = s.readByte a) ∧
      (∀ b, b < 8 → s.runSelected.energyAt b = resonatorEnergy (s.frameSamples s.jobFidx) b) ∧
      s.runSelected.tone.low = BitVec.ofInt 16 (gdetPair s.jobGt.toNat s.runSelected.energyPairs).1 ∧
      s.runSelected.tone.high = BitVec.ofInt 16 (gdetPair s.jobGt.toNat s.runSelected.energyPairs).2 := by
  have hselected : s.runSelected = s.runGoertzel.runGdet := by rw [State.runSelected, halg]
  rw [hselected]
  refine ⟨State.readByte_congr rfl rfl, fun b hb => ?_, ?_⟩
  · rw [State.energyAt, State.runGdet_energy]
    exact s.energyAt_runGoertzel hb
  · simp only [State.runGdet_tone, State.gdetTone, State.energyPairs, State.runGdet_energy, State.runGoertzel_jobGt,
      and_self]

/-- Settles O24: the decode keeps what the engine and the detector wrote, and they leave all that it reads but the tone
pair. -/
theorem processCommits : Obligations.ProcessCommits := by
  intro s hjob hrdy
  obtain ⟨e, he, hrun, hstep⟩ := s.exists_runDecode_runSelected
  have hcommit := completeProcess_held hrdy he hrun
  have hact : s.completeJob = completeProcess s := by simp only [State.completeJob, hjob]
  have hregs : e s.runSelected = { e s with
      mem := (e s.runSelected).mem, energy := s.runSelected.energy, tone := s.runSelected.tone } := by
    rw [s.runSelected_frame]
    exact he.of_job_results s _ _ _
  have htone : (completeProcess s).tone = s.runSelected.tone := by rw [hcommit, he.frame]
  have henergy : (completeProcess s).energy = s.runSelected.energy := by rw [hcommit, he.frame]
  have hbytes (a : Nat) : (completeProcess s).readByte a = (e s.runSelected).readByte a :=
    State.readByte_congr (by rw [hcommit]) (by rw [hcommit]) a
  have habove (a : Nat) (ha : 0x4000 ≤ a) : (completeProcess s).readByte a = s.runSelected.readByte a :=
    (hbytes a).trans (he.readByte_above _ (by omega))
  refine ⟨completeProcess s, congrArg Host.Outcome.next hact, ?frame, fun halg => ?fft, fun halg => ?goertzel,
    fun f n hn => ?samples, ?decode⟩
  case frame => rw [hcommit, hregs, he.frame s]
  case fft =>
    have hbins : (completeProcess s).specBin = s.runSelected.specBin := funext (State.specBin_of_bytes habove)
    rw [henergy, htone, hbins]
    exact State.runSelected_fft halg
  case goertzel =>
    obtain ⟨hmem, hgoertzel⟩ := State.runSelected_goertzel halg
    simp only [State.energyAt, State.energyPairs, henergy, htone] at hgoertzel ⊢
    exact ⟨fun a ha => (habove a ha.1).trans (hmem a), hgoertzel⟩
  case samples => exact hact ▸ s.completeJob_frameKept.samples n hn
  case decode =>
    rw [htone, hstep]
    refine ⟨?lastChar, ?seqLen, ?code, ?sym, ?event, fun a ha => ?bytes⟩
    case bytes =>
      rw [hbytes]
      exact he.readByte_congr (by rw [s.runSelected_frame]) (s.readByte_runSelected_outside ha)
    all_goals rw [hcommit, hregs]

/-! ### A job's effect, whichever job it is run as (R361, R363) -/

/-- Started as the job `j` (R361), with the bus's last answer `r`. -/
def State.launch (s : State) (j : Job) (r : BusResponse) : State := { s.startJob j with resp := r }

/-- An effect that neither reads nor writes `JOB` and the bus's last answer, and writes neither the latched operands nor
what these are latched from: to launch another job after it is to launch that job before it. -/
def Restartable (f : State → State) : Prop :=
  ∀ (s : State) (j k : Job) (r q : BusResponse), (f (s.launch j r)).launch k q = f (s.launch k q)

theorem DecodeAction.restartable {e : State → State} (he : DecodeAction e) : Restartable e := by
  intro s j k r q
  cases he with
  | noise | multitone | hold _ | append _ | overflow _ => rfl

namespace Restartable

theorem comp {f g : State → State} (hg : Restartable g) (hf : Restartable f) : Restartable (g ∘ f) := by
  intro s j k r q
  calc (g (f (s.launch j r))).launch k q
      = (g ((f (s.launch j r)).launch j r)).launch k q := by rw [hf s j j r r]
    _ = g ((f (s.launch j r)).launch k q) := hg _ j k r q
    _ = g (f (s.launch k q)) := by rw [hf s j k r q]

/-- Once the job has ended, only the bus's last answer is left to tell which run it was. -/
theorem ended {f : State → State} (hf : Restartable f) (s : State) (j : Job) (r q : BusResponse) :
    { (f (s.launch j r)).endJob with resp := q } = f (s.launch .none q) := by
  rw [← hf s j .none r q, ← hf s j j r r]
  rfl

/-- Without a job, the bus's last answer is a register that the effect leaves alone. -/
theorem with_resp {f : State → State} (hf : Restartable f) (s : State) (r q : BusResponse) :
    { f (s.launch .none r) with resp := q } = f (s.launch .none q) := by
  rw [← hf s .none .none r q, ← hf s .none .none r r]
  rfl

theorem runFft : Restartable State.runFft := fun _ _ _ _ _ => rfl

theorem runGoertzel : Restartable State.runGoertzel := fun _ _ _ _ _ => rfl

theorem runFdet : Restartable State.runFdet := by
  intro s j k r q
  simp only [State.launch, State.runFdet, State.fdetPair, State.startJob]
  rfl

theorem runGdet : Restartable State.runGdet := fun _ _ _ _ _ => rfl

theorem runDecode : Restartable State.runDecode := by
  intro s j k r q
  obtain ⟨e, he, hdecode⟩ := exists_decodeAction s s.tone.low.toInt s.tone.high.toInt
  have hrun (j : Job) (r : BusResponse) : (s.launch j r).runDecode = e (s.launch j r) := hdecode _ ⟨rfl, rfl, rfl⟩
  rw [hrun, hrun, he.restartable]

theorem releaseToken : Restartable State.releaseToken := by
  intro s j k r q
  cases h : s.rdyP with
  | false =>
    have hrun (j : Job) (r : BusResponse) := State.releaseToken_notHeld (s := s.launch j r) h
    rw [hrun, hrun]
    rfl
  | true =>
    have hrun (j : Job) (r : BusResponse) := State.releaseToken_held (s := s.launch j r) h
    rw [hrun, hrun]
    rfl

end Restartable

/-! ### The jobs as commands, effects and algorithms (R360-R367) -/

/-- The command that starts a job (R172); no command starts none. -/
def Job.command : Job → Instr
  | .none => .nop
  | .fftRun => .fftRun
  | .goeRun => .goeRun
  | .fdet => .fdet
  | .gdet => .gdet
  | .decode => .decode
  | .process => .process
  | .release => .release

/-- What a job's commit does before `JOB <- NONE` (R363). -/
def Job.effect : Job → State → State
  | .none => id
  | .fftRun => State.runFft
  | .goeRun => State.runGoertzel
  | .fdet => State.runFdet
  | .gdet => State.runGdet
  | .decode => State.runDecode
  | .process => State.releaseToken ∘ State.runDecode ∘ State.runSelected
  | .release => State.releaseToken

/-- The engine's job of an algorithm (R365). -/
def Alg.engine : Alg → Job
  | .fft => .fftRun
  | .goertzel => .goeRun

/-- The detector's job of an algorithm (R365). -/
def Alg.detector : Alg → Job
  | .fft => .fdet
  | .goertzel => .gdet

theorem Job.command_wellFormed (j : Job) : j.command.wellFormed = true := by
  cases j <;> rfl

theorem State.completeJob_eq {s : State} {j : Job} (hs : s.job = j) (hj : j ≠ .none) :
    s.completeJob = (j.effect s).endJob := by
  rw [State.completeJob, hs]
  cases j with
  | none => exact absurd rfl hj
  | fftRun | goeRun | fdet | gdet | decode | process | release => rfl

theorem State.runSelected_eq (s : State) :
    s.runSelected = s.jobAlg.detector.effect (s.jobAlg.engine.effect s) := by
  rw [State.runSelected]
  cases s.jobAlg <;> rfl

theorem Restartable.runSelected : Restartable State.runSelected := by
  intro s j k r q
  have hrun (j : Job) (r : BusResponse) :
      (s.launch j r).runSelected = s.alg.detector.effect (s.alg.engine.effect (s.launch j r)) :=
    State.runSelected_eq _
  rw [hrun, hrun]
  cases s.alg with
  | fft => exact Restartable.runFdet.comp .runFft s j k r q
  | goertzel => exact Restartable.runGdet.comp .runGoertzel s j k r q

theorem Job.effect_restartable (j : Job) : Restartable j.effect := by
  cases j with
  | none => exact fun _ _ _ _ _ => rfl
  | fftRun => exact .runFft
  | goeRun => exact .runGoertzel
  | fdet => exact .runFdet
  | gdet => exact .runGdet
  | decode => exact .runDecode
  | process => exact Restartable.releaseToken.comp (Restartable.runDecode.comp .runSelected)
  | release => exact .releaseToken

/-! ### A job command from its write to idle (R175, R367) -/

/-- A ready frame in manual mode, and no job running: every job command is accepted (R367). -/
structure AcceptsJobs (s : State) : Prop where
  auto : s.auto = false
  idle : s.job = .none
  frame : s.rdyP = true

theorem AcceptsJobs.exec_command {s : State} (h : AcceptsJobs s) {j : Job} (hj : j ≠ .none) :
    exec j.command s = .next (s.startJob j) := by
  cases j with
  | none => exact absurd rfl hj
  | fdet | gdet | decode => exact runJobCommand_accepted h.auto h.idle _
  | fftRun | goeRun | process | release => exact runJobFrameCommand_accepted h.auto h.idle h.frame _

theorem performAll_append {as : List Action} {s t : State} (h : performAll as s = .next t) (bs : List Action) :
    performAll (as ++ bs) s = performAll bs t := by
  induction as generalizing s with
  | nil => cases h; rfl
  | cons a as ih =>
    simp only [performAll, List.cons_append] at h ⊢
    split at h
    case h_1 u hu => exact ih h
    case h_2 => cases h
    case h_3 => cases h

/-- A poll of `STATUS` draws no free value, so polls leave nothing but the last one's answer. -/
theorem performAll_statusPolls (n : Nat) (s : State) :
    ∃ r, performAll (statusPolls n) s = .next { s with resp := r } := by
  induction n generalizing s with
  | zero => exact ⟨s.resp, rfl⟩
  | succ n ih => exact ih { s with resp := .read (readVal s .status) false }

/-- The write of a command, polls of `STATUS`, the commit, and polls again. -/
def jobActions (j : Job) (n m : Nat) : List Action :=
  cmdWriteAction (encode j.command) :: (statusPolls n ++ .complete :: statusPolls m)

/-- The actions have the effect `f` on every state that accepts jobs, but for the latched operands and the bus's last
answer. -/
def HaveEffect (as : List Action) (f : State → State) : Prop :=
  ∀ s, AcceptsJobs s → ∃ q, performAll as s = .next (f (s.launch .none q))

theorem haveEffect_jobActions {j : Job} (hj : j ≠ .none) (n m : Nat) : HaveEffect (jobActions j n m) j.effect := by
  intro s hs
  have hdecode : decode (encode j.command) = .ok j.command := (decode_eq_ok_iff_eq j.command_wellFormed _).mpr rfl
  have hwrite : performAll [cmdWriteAction (encode j.command)] s = .next (s.launch j (.write false)) := by
    have haccepts : AcceptsJobs { s with resp := .write false } := { hs with }
    rw [performAll, perform_cmdWriteAction hdecode, haccepts.exec_command hj]
    rfl
  obtain ⟨r, hwait⟩ := performAll_statusPolls n (s.launch j (.write false))
  have hcommit : performAll [.complete] (s.launch j r) = .next (j.effect (s.launch j r)).endJob := by
    have hbusy : enabled .complete (s.launch j r) = true := decide_eq_true hj
    rw [performAll, perform, if_pos hbusy, act, State.completeJob_eq rfl hj]
    rfl
  obtain ⟨q, hidle⟩ := performAll_statusPolls m (j.effect (s.launch j r)).endJob
  refine ⟨q, ?_⟩
  calc performAll (jobActions j n m) s
      = performAll (statusPolls n ++ .complete :: statusPolls m) (s.launch j (.write false)) :=
        performAll_append hwrite _
    _ = performAll (.complete :: statusPolls m) (s.launch j r) := performAll_append hwait _
    _ = performAll (statusPolls m) (j.effect (s.launch j r)).endJob := performAll_append hcommit _
    _ = .next (j.effect (s.launch .none q)) := by rw [hidle, j.effect_restartable.ended]

/-! ### One job command after the other (R371) -/

/-- An effect after which the next job command is accepted. -/
structure Continues (f : State → State) : Prop where
  restartable : Restartable f
  auto : ∀ s, (f s).auto = s.auto
  rdyP : ∀ s, (f s).rdyP = s.rdyP

theorem Continues.comp {f g : State → State} (hg : Continues g) (hf : Continues f) : Continues (g ∘ f) where
  restartable := hg.restartable.comp hf.restartable
  auto s := (hg.auto _).trans (hf.auto s)
  rdyP s := (hg.rdyP _).trans (hf.rdyP s)

theorem Continues.acceptsJobs {f : State → State} (hf : Continues f) {s : State} (hs : AcceptsJobs s)
    (r : BusResponse) : AcceptsJobs (f (s.launch .none r)) where
  auto := (hf.auto _).trans hs.auto
  idle := by rw [← hf.restartable s .none .none r r]; rfl
  frame := (hf.rdyP _).trans hs.frame

theorem HaveEffect.append {as bs : List Action} {f g : State → State} (has : HaveEffect as f) (hf : Continues f)
    (hbs : HaveEffect bs g) : HaveEffect (as ++ bs) (g ∘ f) := by
  intro s hs
  obtain ⟨r, hfirst⟩ := has s hs
  obtain ⟨q, hsecond⟩ := hbs _ (hf.acceptsJobs hs r)
  refine ⟨q, ?_⟩
  rw [performAll_append hfirst, hsecond, hf.restartable s .none .none r q]
  rfl

theorem continues_runDecode : Continues State.runDecode where
  restartable := .runDecode
  auto s := by rw [s.runDecode_frame]
  rdyP s := by rw [s.runDecode_frame]

theorem continues_engine (a : Alg) : Continues a.engine.effect := by
  cases a with
  | fft => exact ⟨.runFft, State.runFft_auto, State.runFft_rdyP⟩
  | goertzel => exact ⟨.runGoertzel, State.runGoertzel_auto, State.runGoertzel_rdyP⟩

theorem continues_detector (a : Alg) : Continues a.detector.effect := by
  cases a with
  | fft => exact ⟨.runFdet, State.runFdet_auto, State.runFdet_rdyP⟩
  | goertzel => exact ⟨.runGdet, State.runGdet_auto, State.runGdet_rdyP⟩

theorem Alg.engine_ne_none (a : Alg) : a.engine ≠ .none := by
  cases a <;> decide

theorem Alg.detector_ne_none (a : Alg) : a.detector ≠ .none := by
  cases a <;> decide

/-- The manual sequence of an algorithm has the effects of its four jobs, one after the other. -/
theorem haveEffect_manual (a : Alg) (n1 n2 n3 n4 m1 m2 m3 m4 : Nat) :
    HaveEffect
      (jobActions a.engine n1 m1 ++ jobActions a.detector n2 m2 ++ jobActions .decode n3 m3 ++
        jobActions .release n4 m4)
      (State.releaseToken ∘ State.runDecode ∘ a.detector.effect ∘ a.engine.effect) := by
  have hengine := haveEffect_jobActions a.engine_ne_none n1 m1
  have hdetector := haveEffect_jobActions a.detector_ne_none n2 m2
  have hdecode := haveEffect_jobActions (j := .decode) (by decide) n3 m3
  have hrelease := haveEffect_jobActions (j := .release) (by decide) n4 m4
  have hdetected := (continues_detector a).comp (continues_engine a)
  exact ((hengine.append (continues_engine a) hdetector).append hdetected hdecode).append
    (continues_runDecode.comp hdetected) hrelease

/-- Settles O59: on the latched algorithm, the effect of `PROCESS` is that of the four jobs. -/
theorem manualEqualsProcess : Obligations.ManualEqualsProcess := by
  intro s n1 n2 n3 n4 n5 m1 m2 m3 m4 m5 hauto hidle hrdy cmd engine detector
  have hs : AcceptsJobs s := ⟨hauto, hidle, hrdy⟩
  have hengine : engine = s.alg.engine.command := by
    simp only [engine]
    cases s.alg <;> rfl
  have hdetector : detector = s.alg.detector.command := by
    simp only [detector]
    cases s.alg <;> rfl
  obtain ⟨q, hmanual⟩ := haveEffect_manual s.alg n1 n2 n3 n4 m1 m2 m3 m4 s hs
  obtain ⟨q', hprocess⟩ := haveEffect_jobActions (j := .process) (by decide) n5 m5 s hs
  have hsame : Job.process.effect (s.launch .none q) =
      (State.releaseToken ∘ State.runDecode ∘ s.alg.detector.effect ∘ s.alg.engine.effect) (s.launch .none q) :=
    congrArg (State.releaseToken ∘ State.runDecode) (State.runSelected_eq _)
  rw [hengine, hdetector]
  refine ⟨_, _, hmanual, hprocess, ?_⟩
  rw [← hsame, Job.process.effect_restartable.with_resp, Job.process.effect_restartable.with_resp]

end Sys2Proof.Machine

namespace Sys2Proof.Machine

/-! ## Steps and runs (R400-R404, R420, R421)

Every step is answered. The facts about events and runs come down to what a step cannot take back: a pending message, a
delivered frame, a signalled event and a running job each last until one kind of step; fairness brings these steps
about. -/

/-! ### Every step is answered (R400) -/

theorem act_answers (a : Action) (s : State) : ∃ t, act a s = .next t := by
  cases a with
  | tick _ | confirmEdge | deliverSet | deliverClr | autoStart | complete | busRead _ _ | reset => exact ⟨_, rfl⟩
  | busWrite off lanes d =>
    cases hl : accessLoc off lanes with
    | none => exact ⟨_, busWrite_refused hl d s⟩
    | some l =>
      obtain ⟨t, ht, -⟩ := busWrite_mapped_resp hl d s
      exact ⟨t, ht⟩

theorem perform_enabled {a : Action} {s : State} (h : enabled a s = true) : perform a s = act a s := if_pos h

theorem perform_disabled {a : Action} {s : State} (h : enabled a s = false) : perform a s = .next s :=
  if_neg (Bool.not_eq_true _ ▸ h)

/-- Settles O8: the scheduled step is enabled and answers, or it is dropped. -/
theorem stepAlwaysAnswersNext : Obligations.StepAlwaysAnswersNext := by
  intro s
  cases hen : enabled s.nextStep.1 s.nextStep.2 with
  | true =>
    obtain ⟨t, ht⟩ := act_answers s.nextStep.1 s.nextStep.2
    exact ⟨t, (perform_enabled hen).trans ht⟩
  | false => exact ⟨_, perform_disabled hen⟩

/-! ### The table of enabling conditions (R420) -/

theorem enabled_autoStart_iff (s : State) :
    enabled .autoStart s = true ↔ s.auto = true ∧ s.job = .none ∧ s.rdyP = true := by
  simp only [enabled, Bool.and_eq_true, Bool.not_eq_true', s.busy_eq_false_iff, and_assoc]

theorem enabled_complete_iff (s : State) : enabled .complete s = true ↔ s.job ≠ .none := decide_eq_true_iff

/-- Settles O7: only the two steps of the sequencer have a condition that is not itself a register. -/
theorem stepTakesScheduledAction : Obligations.StepTakesScheduledAction := by
  refine ⟨fun s a rest hs => ?_, fun s => ?_⟩
  · rw [step_of_agenda hs]
    exact ⟨perform_enabled, perform_disabled⟩
  · exact ⟨fun _ => rfl, rfl, fun _ _ => rfl, fun _ _ _ => rfl, Iff.rfl, Iff.rfl, enabled_autoStart_iff s,
      enabled_complete_iff s⟩

/-! ### Flags: what one kind of step alone takes back (R244, R246, R247, R404) -/

/-- A bit of the state that many steps can set and, but for a reset, only one kind of step clears. -/
inductive Flag where
  | setPend
  | clrPend
  | rdyP
  | event (b : Nat)

def Flag.isSet : Flag → State → Bool
  | .setPend, s => s.setPend
  | .clrPend, s => s.clrPend
  | .rdyP, s => s.rdyP
  | .event b, s => s.event.getLsbD b

/-- The jobs whose commit releases the token (R246, R365, R366). -/
def Job.Releases (j : Job) : Prop := j = .process ∨ j = .release

theorem Job.Releases.ne_none {j : Job} (h : j.Releases) : j ≠ .none := by
  rintro rfl
  exact absurd h (by simp [Job.Releases])

/-- The step that clears a flag: the message's delivery (R244, R247), the commit of a releasing job (R246), a write of
`EVENT` (R404). -/
def Flag.ClearedBy : Flag → Action → State → Prop
  | .setPend, a, _ => a = .deliverSet
  | .clrPend, a, _ => a = .deliverClr
  | .rdyP, a, s => a = .complete ∧ s.job.Releases
  | .event _, a, _ => ∃ d, a = .busWrite 0x010#16 0xF#4 d

def Flag.Kept (f : Flag) (s t : State) : Prop := f.isSet s = true → f.isSet t = true

theorem Flag.Kept.trans {f : Flag} {s t u : State} (h : f.Kept s t) (h' : f.Kept t u) : f.Kept s u := h' ∘ h

theorem Flag.Kept.of_imp {f : Flag} {s t : State} (hset : s.setPend = true → t.setPend = true)
    (hclr : s.clrPend = true → t.clrPend = true) (hrdy : s.rdyP = true → t.rdyP = true)
    (hevent : ∀ b, s.event.getLsbD b = true → t.event.getLsbD b = true) : f.Kept s t := by
  cases f with
  | setPend => exact hset
  | clrPend => exact hclr
  | rdyP => exact hrdy
  | event b => exact hevent b

/-- A change of other registers. -/
theorem Flag.Kept.of_eq {f : Flag} {s t : State} (hset : t.setPend = s.setPend) (hclr : t.clrPend = s.clrPend)
    (hrdy : t.rdyP = s.rdyP) (hevent : t.event = s.event) : f.Kept s t :=
  .of_imp hset.trans hclr.trans hrdy.trans fun _ => hevent ▸ id

/-- Signalling an event takes nothing back (R403). -/
theorem Flag.Kept.signal {f : Flag} {s t : State} (h : f.Kept s t) (e : Event) : f.Kept s (t.signal e) :=
  h.trans (.of_imp id id id fun b hb => by simp [hb])

/-! #### Commands and the bus -/

theorem CommandEffect.flagKept {f : Flag} {s t : State} (he : CommandEffect s t) : f.Kept s t := by
  cases he with
  | refused => exact .signal id .cmdErr
  | results _ _ _ | started _ _ _ | seqReset => exact .of_eq rfl rfl rfl rfl
  | confirm =>
    obtain ⟨-, hs⟩ | ⟨-, hs⟩ := s.requestConfirm_cases <;> rw [hs]
    · exact id
    · exact .of_eq rfl rfl rfl rfl

/-- No host write clears a flag, but for the events that a write of `EVENT` clears. -/
theorem writeReg_flagKept {f : Flag} {l : Loc} (h : l = .event → ∀ b, f ≠ .event b) (s : State) (d : Word) :
    f.Kept s (writeReg s l d) := by
  cases l with
  | event =>
    cases f with
    | setPend | clrPend | rdyP => exact id
    | event b => exact absurd rfl (h rfl b)
  | tone | energyLo _ | energyHi _ | specRe _ | specIm _ | maxAmp | halfAmp | rawFs | calSpan =>
    simp only [writeReg]
    split <;> exact .of_eq rfl rfl rfl rfl
  | ctrl | irqEn | fftThresh | goeThreshLo | goeThreshHi | cuARe | cuAIm | cuBRe | cuBIm | id | param | status | cmd
  | result | lastChar | seqLen | midpoint | cuRRe | cuRIm | cuSRe | cuSIm | cuMLo | cuMHi | grom _ | seq _
  | frame _ _ | twrom _ => exact .of_eq rfl rfl rfl rfl

/-- `EVENT` stands at one offset (R141). -/
theorem accessLoc_event {off : Half} {lanes : BitVec 4} (hl : accessLoc off lanes = some .event) :
    off = 0x010#16 ∧ lanes = 0xF#4 := by
  obtain ⟨-, hlanes, hloc⟩ := accessLoc_eq_some_iff.mp hl
  refine ⟨BitVec.eq_of_toNat_eq ?_, hlanes⟩
  obtain hreg | hwin := locOf_cases hloc
  · simpa [registerMap] using hreg
  · nomatch hwin

theorem busWrite_flagKept {f : Flag} {s t : State} {off : Half} {lanes : BitVec 4} {d : Word}
    (hclear : ¬ f.ClearedBy (.busWrite off lanes d) s) (ht : busWrite off lanes d s = .next t) : f.Kept s t := by
  have hresp : f.Kept s { s with resp := .write false } := .of_eq rfl rfl rfl rfl
  obtain rfl | ⟨-, he⟩ | ⟨l, hl, rfl⟩ := busWrite_cases ht
  · exact .of_eq rfl rfl rfl rfl
  · exact hresp.trans he.flagKept
  · refine hresp.trans (writeReg_flagKept ?_ _ d)
    rintro rfl b rfl
    obtain ⟨rfl, rfl⟩ := accessLoc_event hl
    exact hclear ⟨d, rfl⟩

theorem State.busRead_flagKept {f : Flag} (s : State) (off : Half) (lanes : BitVec 4) :
    f.Kept s (s.busRead off lanes) := by
  obtain hs | ⟨_, -, hs⟩ | ⟨_, -, hs⟩ := busRead_cases s off lanes
  all_goals
    rw [hs]
    exact .of_eq rfl rfl rfl rfl

/-! #### Jobs -/

theorem DecodeEffect.flagKept {f : Flag} {s t : State} (he : DecodeEffect s t) : f.Kept s t := by
  cases he with
  | noise | hold _ => exact .of_eq rfl rfl rfl rfl
  | multitone | accepted _ _ | overflow _ =>
    refine .signal ?_ _
    exact .of_eq rfl rfl rfl rfl

theorem State.runDecode_flagKept {f : Flag} (s : State) : f.Kept s s.runDecode :=
  (s.decodeStep_effect s.tone.low.toInt s.tone.high.toInt).flagKept

theorem State.runSelected_flagKept {f : Flag} (s : State) : f.Kept s s.runSelected := by
  rw [s.runSelected_frame]
  exact .of_eq rfl rfl rfl rfl

/-- A release clears `RDY_P` and sets `CLR_PEND` (R246). -/
theorem State.releaseToken_flagKept {f : Flag} (hf : f ≠ .rdyP) (s : State) : f.Kept s s.releaseToken := by
  unfold State.releaseToken
  split
  case isFalse => exact id
  case isTrue =>
    refine .signal ?_ _
    cases f with
    | setPend | event _ => exact id
    | clrPend => exact fun _ => rfl
    | rdyP => exact absurd rfl hf

theorem Job.effect_flagKept {f : Flag} {j : Job} (h : f = .rdyP → ¬ j.Releases) (s : State) :
    f.Kept s (j.effect s) := by
  have hrelease (hj : j.Releases) (u : State) : f.Kept u u.releaseToken :=
    u.releaseToken_flagKept fun hf => h hf hj
  cases j with
  | none | fftRun | goeRun => exact .of_eq rfl rfl rfl rfl
  | fdet => exact .of_eq s.runFdet_setPend s.runFdet_clrPend s.runFdet_rdyP s.runFdet_event
  | gdet => exact .of_eq s.runGdet_setPend s.runGdet_clrPend s.runGdet_rdyP s.runGdet_event
  | decode => exact s.runDecode_flagKept
  | process => exact (s.runSelected_flagKept.trans (State.runDecode_flagKept _)).trans (hrelease (.inl rfl) _)
  | release => exact hrelease (.inr rfl) s

theorem State.completeJob_idle {s : State} (h : s.job = .none) : s.completeJob = s := by
  rw [State.completeJob, h]

theorem State.completeJob_flagKept {f : Flag} {s : State} (h : f = .rdyP → ¬ s.job.Releases) :
    f.Kept s s.completeJob := by
  by_cases hjob : s.job = .none
  · rw [State.completeJob_idle hjob]
    exact id
  · rw [State.completeJob_eq rfl hjob]
    exact (Job.effect_flagKept h s).trans (.of_eq rfl rfl rfl rfl)

/-! #### The sampler -/

theorem State.calTick_flagKept {f : Flag} (s : State) (raw v : Half) : f.Kept s (s.calTick raw v) := by
  simp only [State.calTick, State.reportBand_eq, State.reportStraddle_eq, State.finalise_eq]
  exact .of_imp id id id fun b hb => by simp [hb]

theorem State.handOff_flagKept {f : Flag} (s : State) : f.Kept s s.handOff := by
  unfold State.handOff
  split
  case isTrue =>
    refine .signal ?_ _
    exact .of_eq rfl rfl rfl rfl
  case isFalse => exact .of_imp (fun _ => rfl) id id fun _ => id

theorem State.tick_flagKept {f : Flag} (s : State) (raw : Half) : f.Kept s (s.tick raw) := by
  unfold State.tick
  split
  case isFalse => exact s.calTick_flagKept raw _
  case isTrue =>
    simp only [State.frameTick]
    split
    case isTrue => exact .of_eq rfl rfl rfl rfl
    case isFalse =>
      refine Flag.Kept.trans ?_ (State.handOff_flagKept _)
      exact .of_eq rfl rfl rfl rfl

/-! #### Every step -/

/-- A flag that is set stays set until the step that clears it, or a reset. -/
theorem act_flagKept {f : Flag} {s t : State} {a : Action} (hreset : a ≠ .reset) (hclear : ¬ f.ClearedBy a s)
    (ht : act a s = .next t) : f.Kept s t := by
  cases a with
  | tick raw => cases ht; exact s.tick_flagKept _
  | confirmEdge => cases ht; exact CommandEffect.confirm.flagKept
  | deliverSet =>
    cases ht
    cases f with
    | setPend => exact absurd rfl hclear
    | rdyP => exact fun _ => rfl
    | clrPend | event _ => exact id
  | deliverClr =>
    cases ht
    cases f with
    | clrPend => exact absurd rfl hclear
    | setPend | rdyP | event _ => exact id
  | autoStart => cases ht; exact .of_eq rfl rfl rfl rfl
  | complete =>
    cases ht
    refine State.completeJob_flagKept ?_
    rintro rfl hreleases
    exact hclear ⟨rfl, hreleases⟩
  | busRead off lanes => cases ht; exact s.busRead_flagKept off lanes
  | busWrite off lanes d => exact busWrite_flagKept hclear ht
  | reset => exact absurd rfl hreset

/-- Settles O50: an event is a flag that only a write of `EVENT` clears; that write is its equation of `writeReg`. -/
theorem eventsAreSticky : Obligations.EventsAreSticky := by
  refine ⟨fun s t a b hreset hwrite ht => ?_, fun s d => act_busWrite_of (l := .event) rfl nofun ?_⟩
  · exact act_flagKept (f := .event b) hreset (fun ⟨d, hd⟩ => hwrite d hd) ht
  · simp only [writeReg, State.clearEvents, BitVec.setWidth_eq_extractLsb' (show 9 ≤ 32 by decide)]

/-! ### The job: in automatic mode or while a job runs, no command starts one (R362, R367) -/

theorem runJobCommand_job {j : Job} {s t : State} (h : s.auto = true ∨ s.job ≠ .none)
    (ht : runJobCommand j s = .next t) : t.job = s.job := by
  cases (runJobCommand_refused h j).symm.trans ht
  rfl

theorem runJobFrameCommand_job {j : Job} {s t : State} (h : s.auto = true ∨ s.job ≠ .none)
    (ht : runJobFrameCommand j s = .next t) : t.job = s.job := by
  cases (runJobFrameCommand_refused (h.imp_right .inl) j).symm.trans ht
  rfl

theorem State.requestConfirm_job (s : State) : s.requestConfirm.job = s.job := by
  obtain ⟨-, hs⟩ | ⟨-, hs⟩ := s.requestConfirm_cases <;> rw [hs]

theorem exec_keeps_job {i : Instr} {s t : State} (h : s.auto = true ∨ s.job ≠ .none) (ht : exec i s = .next t) :
    t.job = s.job := by
  cases i with
  | nop | seqReset => cases ht; rfl
  | calConfirm => cases ht; exact s.requestConfirm_job
  | cadd | csub | cmul _ | cmag2 | cmag | cpolar _ | cbfly _ =>
    simp only [exec, execCadd, execCsub, execCmul, execCmag2, execCmag, execCpolar, execCbfly] at ht
    obtain ⟨-, rfl⟩ | ⟨-, rfl⟩ := runCuCommand_next ht <;> rfl
  | fdet | gdet | decode => exact runJobCommand_job h ht
  | fftRun | goeRun | process | release => exact runJobFrameCommand_job h ht

theorem writeReg_job (s : State) (l : Loc) (d : Word) : (writeReg s l d).job = s.job := by
  cases l with
  | tone | energyLo _ | energyHi _ | specRe _ | specIm _ | maxAmp | halfAmp | rawFs | calSpan =>
    simp only [writeReg]
    split <;> rfl
  | ctrl | event | irqEn | fftThresh | goeThreshLo | goeThreshHi | cuARe | cuAIm | cuBRe | cuBIm | id | param | status
  | cmd | result | lastChar | seqLen | midpoint | cuRRe | cuRIm | cuSRe | cuSIm | cuMLo | cuMHi | grom _ | seq _
  | frame _ _ | twrom _ => rfl

theorem busWrite_keeps_job {s t : State} {off : Half} {lanes : BitVec 4} {d : Word}
    (h : s.auto = true ∨ s.job ≠ .none) (ht : busWrite off lanes d s = .next t) : t.job = s.job := by
  unfold busWrite at ht
  split at ht
  case h_1 => cases ht; rfl
  case h_2 =>
    unfold cmdWrite at ht
    split at ht
    case h_1 => exact exec_keeps_job (s := { s with resp := .write false }) h ht
    case h_2 => cases ht; rfl
  case h_3 l _ _ => cases ht; exact writeReg_job _ l d

theorem State.busRead_job (s : State) (off : Half) (lanes : BitVec 4) : (s.busRead off lanes).job = s.job := by
  obtain hs | ⟨_, -, hs⟩ | ⟨_, -, hs⟩ := busRead_cases s off lanes
  all_goals rw [hs]

theorem State.handOff_job (s : State) : s.handOff.job = s.job := by
  unfold State.handOff
  split <;> rfl

theorem State.tick_job (s : State) (raw : Half) : (s.tick raw).job = s.job := by
  unfold State.tick
  split
  case isFalse => simp only [State.calTick, State.reportBand_eq, State.reportStraddle_eq, State.finalise_eq]
  case isTrue =>
    simp only [State.frameTick]
    split
    case isTrue => rfl
    case isFalse => exact State.handOff_job _

theorem act_keeps_job {s t : State} {a : Action} (h : s.auto = true ∨ s.job ≠ .none) (hreset : a ≠ .reset)
    (hstart : a ≠ .autoStart) (hcomplete : a ≠ .complete) (ht : act a s = .next t) : t.job = s.job := by
  cases a with
  | tick raw => cases ht; exact s.tick_job _
  | confirmEdge => cases ht; exact s.requestConfirm_job
  | deliverSet | deliverClr => cases ht; rfl
  | autoStart => exact absurd rfl hstart
  | complete => exact absurd rfl hcomplete
  | busRead off lanes => cases ht; exact s.busRead_job off lanes
  | busWrite off lanes d => exact busWrite_keeps_job h ht
  | reset => exact absurd rfl hreset

/-- A running job runs until its commit: no other is started meanwhile. -/
theorem act_keeps_running {s t : State} {a : Action} (hen : enabled a s = true) (hjob : s.job ≠ .none)
    (hcomplete : a ≠ .complete) (hreset : a ≠ .reset) (ht : act a s = .next t) : t.job = s.job := by
  refine act_keeps_job (.inr hjob) hreset ?_ hcomplete ht
  rintro rfl
  exact hjob ((enabled_autoStart_iff s).mp hen).2.1

/-- In automatic mode the block stays idle until its automatic start. -/
theorem act_keeps_idle {s t : State} {a : Action} (hen : enabled a s = true) (hauto : s.auto = true)
    (hidle : s.job = .none) (hstart : a ≠ .autoStart) (hreset : a ≠ .reset) (ht : act a s = .next t) :
    t.job = .none := by
  refine (act_keeps_job (.inl hauto) hreset hstart ?_ ht).trans hidle
  rintro rfl
  exact (enabled_complete_iff s).mp hen hidle

theorem State.completeJob_job (s : State) : s.completeJob.job = .none := by
  by_cases hjob : s.job = .none
  · rwa [State.completeJob_idle hjob]
  · rw [State.completeJob_eq rfl hjob]
    rfl

theorem State.releaseToken_rdyP (s : State) : s.releaseToken.rdyP = false := by
  cases h : s.rdyP with
  | true => rw [State.releaseToken_held h]; rfl
  | false => rwa [State.releaseToken_notHeld h]

/-- The commit of a releasing job returns the token (R246). -/
theorem State.completeJob_releases {s : State} (h : s.job.Releases) : s.completeJob.rdyP = false := by
  obtain hjob | hjob := h
  all_goals
    rw [State.completeJob_eq hjob (by decide)]
    exact State.releaseToken_rdyP _

/-! ### Fair runs (R421) -/

section
variable {states : Nat → State} {actions : Nat → Action}

/-- The use of weak fairness: a condition that enables a step, and that no other step but a reset ends, lasts until that
step or a reset. -/
theorem WeaklyFair.eventually {a : Action} (hfair : WeaklyFair states actions a) {P : Nat → Prop} {n : Nat} (hn : P n)
    (hen : ∀ m, n ≤ m → P m → enabled a (states m) = true)
    (hkept : ∀ m, n ≤ m → P m → actions m ≠ a → actions m ≠ .reset → P (m + 1)) :
    ∃ m, n ≤ m ∧ P m ∧ (actions m = a ∨ actions m = .reset) := by
  by_contra hnever
  have hother (m : Nat) (hm : n ≤ m) (hP : P m) : actions m ≠ a ∧ actions m ≠ .reset :=
    not_or.mp fun ha => hnever ⟨m, hm, hP, ha⟩
  have hforever (m : Nat) (hm : n ≤ m) : P m := by
    induction m, hm using Nat.le_induction with
    | base => exact hn
    | succ m hm ih => exact hkept m hm ih (hother m hm ih).1 (hother m hm ih).2
  obtain ⟨m, hm, hma⟩ := hfair n fun m hm => hen m hm (hforever m hm)
  exact (hother m hm (hforever m hm)).1 hma

/-- In a run, an action that has one outcome leads to it. -/
theorem IsRun.next_eq (h : IsRun states actions) {m : Nat} {a : Action} {t : State} (ha : actions m = a)
    (ht : act a (states m) = .next t) : states (m + 1) = t := by
  have hnext := h.follows m
  rw [ha, ht] at hnext
  injection hnext with hnext
  exact hnext.symm

/-- The run's `m`-th step is a reset, or the commit that returns the frame (R246). -/
def FrameReturned (states : Nat → State) (actions : Nat → Action) (m : Nat) : Prop :=
  actions m = .reset ∨ (actions m = .complete ∧ (states m).job.Releases ∧ (states (m + 1)).rdyP = false)

namespace FairRun
variable {n : Nat}

theorem handOff_arrives (h : FairRun states actions) (hset : (states n).setPend = true) :
    ∃ m, n ≤ m ∧ (actions m = .deliverSet ∨ actions m = .reset) := by
  obtain ⟨m, hm, -, hstep⟩ := h.fairSet.eventually hset (fun _ _ hP => hP) fun m _ hP hother hreset =>
    act_flagKept (f := .setPend) hreset hother (h.follows m) hP
  exact ⟨m, hm, hstep⟩

theorem release_arrives (h : FairRun states actions) (hclr : (states n).clrPend = true) :
    ∃ m, n ≤ m ∧ (actions m = .deliverClr ∨ actions m = .reset) := by
  obtain ⟨m, hm, -, hstep⟩ := h.fairClr.eventually hclr (fun _ _ hP => hP) fun m _ hP hother hreset =>
    act_flagKept (f := .clrPend) hreset hother (h.follows m) hP
  exact ⟨m, hm, hstep⟩

/-- While a job runs, the frame it was given stays with it until its commit. -/
theorem job_completes (h : FairRun states actions) (hjob : (states n).job ≠ .none) :
    ∃ m, n ≤ m ∧ ((states m).job = (states n).job ∧ Flag.rdyP.Kept (states n) (states m)) ∧
      (actions m = .complete ∨ actions m = .reset) :=
  h.fairComplete.eventually (P := fun m => (states m).job = (states n).job ∧ Flag.rdyP.Kept (states n) (states m))
    ⟨rfl, id⟩ (fun _ _ ⟨hsame, _⟩ => (enabled_complete_iff _).mpr (hsame ▸ hjob))
    fun m _ ⟨hsame, hheld⟩ hother hreset =>
      ⟨(act_keeps_running (h.isEnabled m) (hsame ▸ hjob) hother hreset (h.follows m)).trans hsame,
        hheld.trans (act_flagKept hreset (fun ⟨hcommit, _⟩ => hother hcommit) (h.follows m))⟩

theorem releasingJob_returns (h : FairRun states actions) (hjob : (states n).job.Releases) :
    ∃ m, n ≤ m ∧ FrameReturned states actions m := by
  obtain ⟨m, hm, ⟨hsame, -⟩, hcommit | hreset⟩ := h.job_completes hjob.ne_none
  · have hreleases : (states m).job.Releases := hsame ▸ hjob
    have hnext : states (m + 1) = (states m).completeJob := h.next_eq hcommit rfl
    exact ⟨m, hm, .inr ⟨hcommit, hreleases, hnext ▸ State.completeJob_releases hreleases⟩⟩
  · exact ⟨m, hm, .inl hreset⟩

/-- An idle block in automatic mode starts `PROCESS` on a delivered frame. -/
theorem idle_returns (h : FairRun states actions) (hrdy : (states n).rdyP = true) (hidle : (states n).job = .none)
    (hauto : ∀ m, n ≤ m → (states m).auto = true) : ∃ m, n ≤ m ∧ FrameReturned states actions m := by
  obtain ⟨m, hm, -, hstart | hreset⟩ :=
    h.fairStart.eventually (P := fun m => (states m).job = .none ∧ (states m).rdyP = true) ⟨hidle, hrdy⟩
      (fun m hm ⟨hnone, hheld⟩ => (enabled_autoStart_iff _).mpr ⟨hauto m hm, hnone, hheld⟩)
      fun m hm ⟨hnone, hheld⟩ hother hreset =>
        ⟨act_keeps_idle (h.isEnabled m) (hauto m hm) hnone hother hreset (h.follows m),
          act_flagKept (f := .rdyP) hreset (fun ⟨_, hreleases⟩ => hreleases.ne_none hnone) (h.follows m) hheld⟩
  · have hnext : states (m + 1) = (states m).autoStart := h.next_eq hstart rfl
    obtain ⟨k, hk, hreturned⟩ := h.releasingJob_returns (n := m + 1) (hnext ▸ .inl rfl)
    exact ⟨k, by omega, hreturned⟩
  · exact ⟨m, hm, .inl hreset⟩

/-- In automatic mode: a releasing job returns the frame itself, any other job leaves the block idle with it. -/
theorem frame_returns (h : FairRun states actions) (hrdy : (states n).rdyP = true)
    (hauto : ∀ m, n ≤ m → (states m).auto = true) : ∃ m, n ≤ m ∧ FrameReturned states actions m := by
  by_cases hidle : (states n).job = .none
  · exact h.idle_returns hrdy hidle hauto
  by_cases hreleases : (states n).job.Releases
  · exact h.releasingJob_returns hreleases
  obtain ⟨m, hm, ⟨hsame, hheld⟩, hcommit | hreset⟩ := h.job_completes hidle
  · have hnext : states (m + 1) = (states m).completeJob := h.next_eq hcommit rfl
    have hstill : (states (m + 1)).rdyP = true :=
      hnext ▸ State.completeJob_flagKept (f := .rdyP) (fun _ => hsame ▸ hreleases) (hheld hrdy)
    obtain ⟨k, hk, hreturned⟩ :=
      h.idle_returns hstill (hnext ▸ State.completeJob_job _) fun k hk => hauto k (by omega)
    exact ⟨k, by omega, hreturned⟩
  · exact ⟨m, hm, .inl hreset⟩

end FairRun
end

/-- Settles O47: each of the first three clauses is one use of weak fairness, the last one up to three in a row. -/
theorem fairRunsMakeProgress : Obligations.FairRunsMakeProgress := by
  intro states actions h n
  refine ⟨h.handOff_arrives, h.release_arrives, fun hjob => ?_, h.frame_returns⟩
  obtain ⟨m, hm, -, hstep⟩ := h.job_completes hjob
  exact ⟨m, hm, hstep⟩

end Sys2Proof.Machine

namespace Sys2Proof.Machine

/-! ## Reset, and the sequence between resets (R62, R344, R440-R444, R456) -/

/-! ### What a pulse of reset leaves (R440-R442) -/

/-- Settles O57: every field named is a reset value of `State.afterReset`. -/
theorem resetPulse : Obligations.ResetPulse := fun s =>
  ⟨s.pulseReset, rfl, rfl, rfl, rfl, rfl, rfl, rfl, rfl, rfl, rfl, rfl⟩

/-! ### What a read answers after reset (R62, R444) -/

/-- A legal port is at most 16 bits wide: its full scale fits a calibration register. -/
theorem Params.fullScale_lt {p : Params} (h : p.legal = true) : 2 ^ p.rawBits - 1 < 2 ^ 16 := by
  simp only [Params.legal, decide_eq_true_eq] at h
  have hle : 2 ^ p.rawBits ≤ 2 ^ 16 := Nat.pow_le_pow_right (by decide) (by omega)
  omega

/-- A number of 16 bits reads as itself in a word. -/
theorem setWidth_ofNat_half {n : Nat} (h : n < 2 ^ 16) : (BitVec.ofNat 16 n).setWidth 32 = BitVec.ofNat 32 n := by
  apply BitVec.eq_of_toNat_eq
  simp only [BitVec.toNat_setWidth, BitVec.toNat_ofNat, Nat.mod_eq_of_lt h]

/-- A field at bit `i` of a word stands above the fields below it. -/
theorem or_shiftLeft_eq_add {a b i : Nat} (h : b < 2 ^ i) : b ||| a <<< i = b + a * 2 ^ i := by
  rw [Nat.or_comm, ← Nat.shiftLeft_add_eq_or_of_lt h, Nat.shiftLeft_eq, Nat.add_comm]

/-- `PARAM` of legal parameters: no field is cut off, and none overlaps another (R144). -/
theorem paramWord_of_legal {p : Params} (h : p.legal = true) :
    paramWord p = BitVec.ofNat 32
      (p.seqCap ||| 0x900 ||| (if p.fdetRef = .bin then 1 else 0) <<< 12 ||| p.rawBits <<< 16) := by
  obtain ⟨-, hcap⟩ := Params.seqCap_range h
  have hraw : p.rawBits ≤ 16 := by
    simp only [Params.legal, decide_eq_true_eq] at h
    omega
  have href : (if p.fdetRef = .bin then 1 else 0) ≤ 1 := by split <;> decide
  rw [show 0x900 = 9 <<< 8 from rfl, or_shiftLeft_eq_add (i := 8) (by omega), or_shiftLeft_eq_add (i := 12) (by omega),
    or_shiftLeft_eq_add (i := 16) (by omega), paramWord, Nat.mod_eq_of_lt (by omega : p.seqCap < 256),
    Nat.mod_eq_of_lt (by omega : p.rawBits < 32)]
  cases p.fdetRef <;> rfl

theorem State.ctrlWord_afterReset (p : Params) (e : Nat) : (State.afterReset p e).ctrlWord = 0#32 := by
  simp [State.ctrlWord, State.afterReset, flagBit, Alg.isGoertzel]

/-- R62: uncalibrated and idle, with no frame and no event. -/
theorem State.statusWord_afterReset (p : Params) (e : Nat) : (State.afterReset p e).statusWord = 0#32 := by
  simp [State.statusWord, State.busy, State.irq, State.afterReset, flagBit, FrameIx.isB, Job.code]

theorem State.resultWord_afterReset (p : Params) (e : Nat) : (State.afterReset p e).resultWord = 0#32 := by
  simp [State.resultWord, State.afterReset, ResultCode.code]

theorem State.energyAt_afterReset (p : Params) (e b : Nat) : (State.afterReset p e).energyAt b = 0 := by
  rw [State.energyAt, State.afterReset, Vector.toList_replicate, List.getD, List.getElem?_replicate]
  split <;> rfl

/-- Each of the 16 words of `ENERGY` is the low or the high half of an energy (R163). -/
theorem answers_energy_afterReset (p : Params) (e : Nat) {n : Nat} (hn : n < 16) :
    Answers (State.afterReset p e) (BitVec.ofNat 16 (0x080 + 4 * n)) 0#32 := by
  obtain ⟨b, rfl | rfl⟩ := Nat.even_or_odd' n
  · have ho : 0x080 + 4 * (2 * b) = 0x080 + 8 * b := by omega
    rw [ho]
    exact answers_readVal (accessLoc_energyLo (by omega)) rfl (by rw [readVal, State.energyAt_afterReset]; rfl)
  · have ho : 0x080 + 4 * (2 * b + 1) = 0x084 + 8 * b := by omega
    rw [ho]
    exact answers_readVal (accessLoc_energyHi (by omega)) rfl (by rw [readVal, State.energyAt_afterReset]; rfl)

/-- Settles O56: no job runs after reset, so each word answers its reset value; only the two full scales need the
parameters to be legal. -/
theorem resetReads : Obligations.ResetReads := by
  refine ⟨fun p e hp => ⟨?values, ?zeros, fun n hn => answers_energy_afterReset p e hn, fun i hi => ?seq⟩,
    Config.params, config_params_legal, rfl⟩
  case values =>
    have hfull := setWidth_ofNat_half (Params.fullScale_lt hp)
    simp only [List.forall_mem_cons]
    refine ⟨?_, answers_readVal (l := .param) rfl rfl (paramWord_of_legal hp), ?_, ?_, ?_, ?_,
      answers_readVal (l := .maxAmp) rfl rfl hfull, ?_, answers_readVal (l := .rawFs) rfl rfl hfull, ?_, nofun⟩
    all_goals exact answers_readVal rfl rfl rfl
  case zeros =>
    simp only [List.forall_mem_cons]
    refine ⟨answers_readVal (l := .ctrl) rfl rfl (State.ctrlWord_afterReset p e),
      answers_readVal (l := .status) rfl rfl (State.statusWord_afterReset p e), ?_, ?_, ?_,
      answers_readVal (l := .result) rfl rfl (State.resultWord_afterReset p e),
      answers_readVal (l := .tone) rfl rfl BitVec.zero_append_zero, ?_, ?_, ?_, ?_, ?_, ?_, ?_, ?_, ?_, ?_, ?_,
      answers_readVal (l := .cuMHi) rfl rfl BitVec.extractLsb'_zero, nofun⟩
    all_goals exact answers_readVal rfl rfl rfl
  case seq => exact answers_readVal (accessLoc_seq hi) rfl (readVal_seq_of_le (Nat.zero_le i))

/-! ### The sequence only grows (R344, R456) -/

/-- `t` has the sequence of `s` with `n` entries more, which fit the capacity. -/
structure SequenceGrows (n : Nat) (s t : State) : Prop where
  length : t.seqLen.toNat = s.seqLen.toNat + n
  capacity : t.seqCap = s.seqCap
  fits : s.seqLen.toNat ≤ s.seqCap → t.seqLen.toNat ≤ s.seqCap
  entries : ∀ i, i < s.seqLen.toNat → t.seqChar i = s.seqChar i

theorem SequenceGrows.trans {m n : Nat} {s t u : State} (h : SequenceGrows m s t) (h' : SequenceGrows n t u) :
    SequenceGrows (m + n) s u where
  length := by rw [h'.length, h.length, Nat.add_assoc]
  capacity := h'.capacity.trans h.capacity
  fits hs := h.capacity ▸ h'.fits (h.capacity ▸ h.fits hs)
  entries i hi := (h'.entries i (by rw [h.length]; omega)).trans (h.entries i hi)

theorem SequenceGrows.trans_kept {n : Nat} {s t u : State} (h : SequenceGrows n s t) (h' : SequenceGrows 0 t u) :
    SequenceGrows n s u := h.trans h'

/-- What R344 leaves to a step: to keep the sequence, or to append one entry. -/
def SequenceStep (s t : State) : Prop := ∃ n ≤ 1, SequenceGrows n s t

theorem SequenceStep.of_kept {s t : State} (h : SequenceGrows 0 s t) : SequenceStep s t := ⟨0, Nat.zero_le 1, h⟩

/-- The sequence is kept where its length, the parameters and the RAM below 0x800 are: its window ends there (R141). -/
theorem SequenceGrows.of_readByte {s t : State} (hlen : t.seqLen = s.seqLen) (hpar : t.par = s.par)
    (hbytes : ∀ a, a < 0x800 → t.readByte a = s.readByte a) : SequenceGrows 0 s t where
  length := congrArg BitVec.toNat hlen
  capacity := congrArg Params.seqCap hpar
  fits hs := hlen ▸ hs
  entries i hi := hbytes _ (by
    have hbyte := s.seqLen.isLt
    simp only [seqAddr]
    omega)

/-- A change of other registers. -/
theorem SequenceGrows.of_eq {s t : State} (hlen : t.seqLen = s.seqLen) (hpar : t.par = s.par) (hmem : t.mem = s.mem)
    (hepoch : t.epoch = s.epoch) : SequenceGrows 0 s t :=
  .of_readByte hlen hpar fun a _ => State.readByte_congr hmem hepoch a

/-- A write of RAM above the sequence's window. -/
theorem SequenceGrows.writeBytes (s : State) {a : Nat} (bs : List Byte) (ha : 0x800 ≤ a) :
    SequenceGrows 0 s (s.writeBytes a bs) :=
  .of_readByte rfl rfl fun _ _ => s.readByte_writeBytes_outside (.inl (by omega))

/-! #### Commands and the bus -/

/-- Only `SEQ_RESET` writes the length (R346). -/
theorem exec_seqLen {i : Instr} {s t : State} (hi : i ≠ .seqReset) (ht : exec i s = .next t) : t.seqLen = s.seqLen := by
  cases i with
  | nop => cases ht; rfl
  | seqReset => exact absurd rfl hi
  | calConfirm =>
    cases ht
    obtain ⟨-, hs⟩ | ⟨-, hs⟩ := s.requestConfirm_cases <;> rw [hs]
  | cadd | csub | cmul _ | cmag2 | cmag | cpolar _ | cbfly _ =>
    simp only [exec, execCadd, execCsub, execCmul, execCmag2, execCmag, execCpolar, execCbfly] at ht
    obtain ⟨-, rfl⟩ | ⟨-, rfl⟩ := runCuCommand_next ht <;> rfl
  | fdet | gdet | decode => obtain ⟨-, rfl⟩ | ⟨-, -, rfl⟩ := runJobCommand_next ht <;> rfl
  | fftRun | goeRun | process | release =>
    obtain ⟨-, rfl⟩ | ⟨-, -, -, rfl⟩ := runJobFrameCommand_next ht <;> rfl

theorem exec_keepsSequence {i : Instr} {s t : State} (hi : i ≠ .seqReset) (ht : exec i s = .next t) :
    SequenceGrows 0 s t := by
  have hframe := (exec_effect ht).frame
  exact .of_eq (exec_seqLen hi ht) (by rw [hframe]) (by rw [hframe]) (by rw [hframe])

theorem cmdWrite_keepsSequence {w : Word} {s t : State} (hw : w ≠ 0x00000020#32) (ht : cmdWrite w s = .next t) :
    SequenceGrows 0 s t := by
  unfold cmdWrite at ht
  split at ht
  case h_1 i hi =>
    refine exec_keepsSequence ?_ ht
    rintro rfl
    exact hw ((decode_eq_ok_iff_eq rfl w).mp hi)
  case h_2 => cases ht; exact .of_eq rfl rfl rfl rfl

/-- No host write reaches the sequence's window or length. -/
theorem writeReg_keepsSequence (s : State) (l : Loc) (d : Word) : SequenceGrows 0 s (writeReg s l d) := by
  cases l with
  | specRe k | specIm k =>
    simp only [writeReg]
    split
    case isTrue => exact .writeBytes s _ (by simp only [binAddr]; omega)
    case isFalse => exact .of_eq rfl rfl rfl rfl
  | tone | energyLo _ | energyHi _ | maxAmp | halfAmp | rawFs | calSpan =>
    simp only [writeReg]
    split <;> exact .of_eq rfl rfl rfl rfl
  | ctrl | event | irqEn | fftThresh | goeThreshLo | goeThreshHi | cuARe | cuAIm | cuBRe | cuBIm | id | param | status
  | cmd | result | lastChar | seqLen | midpoint | cuRRe | cuRIm | cuSRe | cuSIm | cuMLo | cuMHi | grom _ | seq _
  | frame _ _ | twrom _ => exact .of_eq rfl rfl rfl rfl

/-- `CMD` stands at one offset (R141). -/
theorem accessLoc_cmd {off : Half} {lanes : BitVec 4} (hl : accessLoc off lanes = some .cmd) :
    off = 0x018#16 ∧ lanes = 0xF#4 := by
  obtain ⟨-, hlanes, hloc⟩ := accessLoc_eq_some_iff.mp hl
  refine ⟨BitVec.eq_of_toNat_eq ?_, hlanes⟩
  obtain hreg | hwin := locOf_cases hloc
  · simpa [registerMap] using hreg
  · nomatch hwin

theorem busWrite_keepsSequence {s t : State} {off : Half} {lanes : BitVec 4} {d : Word}
    (hother : Action.busWrite off lanes d ≠ .busWrite 0x018#16 0xF#4 0x00000020#32)
    (ht : busWrite off lanes d s = .next t) : SequenceGrows 0 s t := by
  have hresp (r : BusResponse) : SequenceGrows 0 s { s with resp := r } := .of_eq rfl rfl rfl rfl
  unfold busWrite at ht
  split at ht
  case h_1 => cases ht; exact hresp _
  case h_2 hl =>
    obtain ⟨rfl, rfl⟩ := accessLoc_cmd hl
    exact (hresp _).trans_kept (cmdWrite_keepsSequence (fun hd => hother (hd ▸ rfl)) ht)
  case h_3 l _ _ => cases ht; exact (hresp _).trans_kept (writeReg_keepsSequence _ l d)

theorem State.busRead_keepsSequence (s : State) (off : Half) (lanes : BitVec 4) :
    SequenceGrows 0 s (s.busRead off lanes) := by
  obtain hs | ⟨_, -, hs⟩ | ⟨_, -, hs⟩ := busRead_cases s off lanes
  all_goals
    rw [hs]
    exact .of_eq rfl rfl rfl rfl

/-! #### Jobs -/

theorem State.runSelected_keepsSequence (s : State) : SequenceGrows 0 s s.runSelected := by
  have hframe := s.runSelected_frame
  exact .of_readByte (by rw [hframe]) (by rw [hframe]) fun a ha => s.readByte_runSelected_outside (.inl (by omega))

theorem State.releaseToken_keepsSequence (s : State) : SequenceGrows 0 s s.releaseToken := by
  unfold State.releaseToken
  split <;> exact .of_eq rfl rfl rfl rfl

/-- A symbol appended while there is room stands above every entry (R341 step 5). -/
theorem State.appendSymbol_sequenceGrows {s : State} (hcap : s.seqCap ≤ 255) (room : s.seqLen.toNat < s.seqCap)
    (sym : Byte) : SequenceGrows 1 s (s.appendSymbol sym) := by
  have hlen : (s.appendSymbol sym).seqLen.toNat = s.seqLen.toNat + 1 := by
    rw [State.appendSymbol_seqLen]
    bv_omega
  exact {
    length := hlen
    capacity := s.appendSymbol_seqCap sym
    fits := fun _ => hlen ▸ room
    entries := fun i hi => s.appendSymbol_seqChar_other sym hi.ne }

theorem DecodeEffect.sequenceStep {s t : State} (he : DecodeEffect s t) (hcap : s.seqCap ≤ 255) : SequenceStep s t := by
  cases he with
  | noise | multitone | hold _ | overflow _ => exact .of_kept (.of_eq rfl rfl rfl rfl)
  | accepted sym room => exact ⟨1, Nat.le_refl 1, State.appendSymbol_sequenceGrows hcap room sym⟩

theorem State.runDecode_sequenceStep {s : State} (hcap : s.seqCap ≤ 255) : SequenceStep s s.runDecode :=
  (s.decodeStep_effect s.tone.low.toInt s.tone.high.toInt).sequenceStep hcap

/-- Of the jobs, only `DECODE` and `PROCESS` append, by the one decode of each. -/
theorem Job.effect_sequenceStep {s : State} (hcap : s.seqCap ≤ 255) (j : Job) : SequenceStep s (j.effect s) := by
  cases j with
  | none | goeRun => exact .of_kept (.of_eq rfl rfl rfl rfl)
  | fftRun => exact .of_kept (.writeBytes s _ (by simp only [binAddr]; omega))
  | fdet => exact .of_kept (.of_eq s.runFdet_seqLen s.runFdet_par s.runFdet_mem s.runFdet_epoch)
  | gdet => exact .of_kept (.of_eq s.runGdet_seqLen s.runGdet_par s.runGdet_mem s.runGdet_epoch)
  | release => exact .of_kept s.releaseToken_keepsSequence
  | decode => exact State.runDecode_sequenceStep hcap
  | process =>
    have hselected := s.runSelected_keepsSequence
    obtain ⟨n, hn, hdecode⟩ := State.runDecode_sequenceStep (hselected.capacity.trans_le hcap)
    exact ⟨0 + n, by omega, (hselected.trans hdecode).trans_kept (State.releaseToken_keepsSequence _)⟩

theorem State.completeJob_sequenceStep {s : State} (hcap : s.seqCap ≤ 255) : SequenceStep s s.completeJob := by
  by_cases hjob : s.job = .none
  · rw [State.completeJob_idle hjob]
    exact .of_kept (.of_eq rfl rfl rfl rfl)
  · obtain ⟨n, hn, heffect⟩ := Job.effect_sequenceStep hcap s.job
    rw [State.completeJob_eq rfl hjob]
    exact ⟨n, hn, heffect.trans_kept (.of_eq rfl rfl rfl rfl)⟩

/-! #### The sampler -/

theorem State.calTick_keepsSequence (s : State) (raw v : Half) : SequenceGrows 0 s (s.calTick raw v) := by
  simp only [State.calTick, State.reportBand_eq, State.reportStraddle_eq, State.finalise_eq]
  exact .of_eq rfl rfl rfl rfl

theorem State.handOff_keepsSequence (s : State) : SequenceGrows 0 s s.handOff := by
  unfold State.handOff
  split <;> exact .of_eq rfl rfl rfl rfl

theorem State.frameTick_keepsSequence (s : State) (v : Half) : SequenceGrows 0 s (s.frameTick v) := by
  have hstore : SequenceGrows 0 s (s.setSample s.activeIdx s.fill.toNat v) := by
    obtain ⟨hlo, -⟩ := sampleAddr_range (f := s.activeIdx) s.fill.isLt
    exact .writeBytes s _ (by omega)
  simp only [State.frameTick]
  split
  case isTrue => exact hstore.trans_kept (.of_eq rfl rfl rfl rfl)
  case isFalse => exact hstore.trans_kept (State.handOff_keepsSequence _)

theorem State.tick_keepsSequence (s : State) (raw : Half) : SequenceGrows 0 s (s.tick raw) := by
  unfold State.tick
  split
  case isTrue => exact s.frameTick_keepsSequence _
  case isFalse => exact s.calTick_keepsSequence raw _

/-! #### Every step -/

/-- A step other than `SEQ_RESET` and a reset keeps the sequence or appends one entry. -/
theorem act_sequenceStep {s t : State} {a : Action} (hcap : s.seqCap ≤ 255) (hreset : a ≠ .reset)
    (hseqReset : a ≠ .busWrite 0x018#16 0xF#4 0x00000020#32) (ht : act a s = .next t) : SequenceStep s t := by
  cases a with
  | complete => cases ht; exact State.completeJob_sequenceStep hcap
  | tick raw => cases ht; exact .of_kept (s.tick_keepsSequence _)
  | confirmEdge => exact .of_kept (exec_keepsSequence (i := .calConfirm) nofun ht)
  | deliverSet | deliverClr | autoStart => cases ht; exact .of_kept (.of_eq rfl rfl rfl rfl)
  | busRead off lanes => cases ht; exact .of_kept (s.busRead_keepsSequence off lanes)
  | busWrite off lanes d => exact .of_kept (busWrite_keepsSequence hseqReset ht)
  | reset => exact absurd rfl hreset

/-- Settles O49: the invariant gives the bound before the step, and a capacity that the 8-bit length can reach. -/
theorem sequenceIsAppendOnly : Obligations.SequenceIsAppendOnly := by
  intro s t a hinv hreset hseqReset ht
  obtain ⟨n, hn, hgrows⟩ := act_sequenceStep hinv.seqCap_le hreset hseqReset ht
  have hlen := hgrows.length
  exact ⟨by omega, by omega, hgrows.fits hinv.sequence, hgrows.entries⟩

end Sys2Proof.Machine
